-- ==== Sys2Proof/Word.lean ====
section
/-! DEFINITION. The bit vectors of the block: bytes, half words and register words (00_scope.md R7: a byte is 8 bits,
`u32` is 32 bits, every value is unsigned). -/

namespace Sys2Proof

/-- A byte (R7). -/
abbrev Byte := BitVec 8

/-- One half of a control word: `module` or `function` (10_state.md R21). -/
abbrev Half := BitVec 16

/-- A register, or the datum of a well-formed bus access (R7, R20). -/
abbrev Word := BitVec 32

end Sys2Proof
end

