-- ==== Sys2Proof/Syntax.lean ====
section
/-! DEFINITION. The command set: one constructor per row of spec/opcode_table.json (30_encoding.md R73, R74). A command
has no immediate field (R71): its operands are the argument registers. Only the fallback carries data, the two selector
halves it reports (44_system_default.md R142). -/

namespace Sys2Proof

/-- A command, as the control word selects it (30_encoding.md R72, R73). -/
inductive Instr where
  /-- SER.INIT, 40_serial.md R100. -/
  | serInit
  /-- SER.SHUTDOWN, 40_serial.md R101. -/
  | serShutdown
  /-- SER.PUTC, 40_serial.md R102. -/
  | serPutc
  /-- GPIO.ADCINIT, 41_gpio.md R110. -/
  | gpioAdcinit
  /-- GPIO.SETDIR, 41_gpio.md R111. -/
  | gpioSetdir
  /-- GPIO.GETIN, 41_gpio.md R112. -/
  | gpioGetin
  /-- GPIO.GETOUT, 41_gpio.md R113. -/
  | gpioGetout
  /-- GPIO.SETOUT, 41_gpio.md R114. -/
  | gpioSetout
  /-- GPIO.SETIMASK, 41_gpio.md R115. -/
  | gpioSetimask
  /-- MOT.GET, 42_motor.md R120. -/
  | motGet
  /-- MOT.SET, 42_motor.md R121. -/
  | motSet
  /-- MOT.STOPALL, 42_motor.md R122. -/
  | motStopall
  /-- COMP.INIT, 43_competition.md R130. -/
  | compInit
  /-- COMP.STANDALONE, 43_competition.md R131. -/
  | compStandalone
  /-- COMP.SETNAME, 43_competition.md R133. -/
  | compSetname
  /-- COMP.GETSTATUS, 43_competition.md R134. -/
  | compGetstatus
  /-- SYS.EXIT, 44_system_default.md R140. -/
  | sysExit
  /-- SYS.BREAK, 44_system_default.md R141. -/
  | sysBreak
  /-- UNKNOWN, 44_system_default.md R142: every other word, with its module and function. -/
  | unknown (m f : Half)
  deriving DecidableEq, Repr

end Sys2Proof
end

