-- ==== Sys2Proof/WellFormed.lean ====
section
/-! DEFINITION. When a term of `Instr` is the command of some control word: the fallback stands only for the words that
30_encoding.md R74 lists as unassigned. -/

namespace Sys2Proof

/-- Is (module, function) one of the 18 named commands? The complement of R74's list: modules 1, 2 and 7 to 65535 have
none, and each other module has its functions from 0 up to a bound. -/
def assigned (m f : Half) : Bool :=
  match m.toNat with
  | 0 => decide (f.toNat < 3)
  | 3 => decide (f.toNat < 6)
  | 4 => decide (f.toNat < 3)
  | 5 => decide (f.toNat < 4)
  | 6 => decide (f.toNat < 2)
  | _ => false

/-- Every named command is well-formed; the fallback is well-formed on unassigned words only (R74). -/
def Instr.wf : Instr → Bool
  | .unknown m f => !assigned m f
  | .serInit => true
  | .serShutdown => true
  | .serPutc => true
  | .gpioAdcinit => true
  | .gpioSetdir => true
  | .gpioGetin => true
  | .gpioGetout => true
  | .gpioSetout => true
  | .gpioSetimask => true
  | .motGet => true
  | .motSet => true
  | .motStopall => true
  | .compInit => true
  | .compStandalone => true
  | .compSetname => true
  | .compGetstatus => true
  | .sysExit => true
  | .sysBreak => true

end Sys2Proof
end

