-- ==== Sys2Proof/Decode.lean ====
section
/-! DEFINITION. The control-word format (30_encoding.md R70), the byte order of an access (20_memory.md R46), the opcode
map (R73) as a table, the decoder over any bytes, and the encoder. -/

namespace Sys2Proof

/-- `module := v[31:16]` (R70). -/
def moduleOf (v : Word) : Half := v.extractLsb' 16 16

/-- `function := v[15:0]` (R70). -/
def functionOf (v : Word) : Half := v.extractLsb' 0 16

/-- `(module << 16) | function` (R70). -/
def controlWord (m f : Half) : Word := m ++ f

/-- The value a 4-byte access carries: `v = {b3, b2, b1, b0}` (R46). Any other number of bytes carries no word (R43). -/
def wordOfBytes : List Byte → Option Word
  | [b0, b1, b2, b3] => some (b3 ++ b2 ++ b1 ++ b0)
  | _ => none

/-- Byte `i` of an access is `v[8i+7:8i]` (R46, R47). -/
def bytesOfWord (v : Word) : List Byte :=
  [v.extractLsb' 0 8, v.extractLsb' 8 8, v.extractLsb' 16 8, v.extractLsb' 24 8]

/-- The opcode map of R73: a whole 32-bit word each (mask 0xFFFFFFFF). -/
def opcodeMap : List (Word × Instr) :=
  [ (0x00000000, .serInit),
    (0x00000001, .serShutdown),
    (0x00000002, .serPutc),
    (0x00030000, .gpioAdcinit),
    (0x00030001, .gpioSetdir),
    (0x00030002, .gpioGetin),
    (0x00030003, .gpioGetout),
    (0x00030004, .gpioSetout),
    (0x00030005, .gpioSetimask),
    (0x00040000, .motGet),
    (0x00040001, .motSet),
    (0x00040002, .motStopall),
    (0x00050000, .compInit),
    (0x00050001, .compStandalone),
    (0x00050002, .compSetname),
    (0x00050003, .compGetstatus),
    (0x00060000, .sysExit),
    (0x00060001, .sysBreak) ]

/-- The first row of a table whose word is `v`. -/
def lookupWord (v : Word) : List (Word × Instr) → Option Instr
  | [] => none
  | (w, i) :: rows => if v = w then some i else lookupWord v rows

/-- The command a control word selects: a row of the map, else UNKNOWN (R72, R74). -/
def decodeWord (v : Word) : Instr :=
  match lookupWord v opcodeMap with
  | some i => i
  | none => .unknown (moduleOf v) (functionOf v)

/-- Why bytes are no command. -/
inductive DecodeError where
  /-- A command is exactly one 32-bit word (R70); an access of another size runs none (R43). -/
  | wrongLength (n : Nat)
  deriving DecidableEq, Repr

/-- The command that the bytes of a control write select, total on any bytes (R43, R46, R72). -/
def decode (bytes : List Byte) : Except DecodeError Instr :=
  match wordOfBytes bytes with
  | some v => .ok (decodeWord v)
  | none => .error (.wrongLength bytes.length)

/-- The control word of a command, from the module and function columns of R73; UNKNOWN carries its own (R142). -/
def encode : Instr → Word
  | .serInit => controlWord 0 0
  | .serShutdown => controlWord 0 1
  | .serPutc => controlWord 0 2
  | .gpioAdcinit => controlWord 3 0
  | .gpioSetdir => controlWord 3 1
  | .gpioGetin => controlWord 3 2
  | .gpioGetout => controlWord 3 3
  | .gpioSetout => controlWord 3 4
  | .gpioSetimask => controlWord 3 5
  | .motGet => controlWord 4 0
  | .motSet => controlWord 4 1
  | .motStopall => controlWord 4 2
  | .compInit => controlWord 5 0
  | .compStandalone => controlWord 5 1
  | .compSetname => controlWord 5 2
  | .compGetstatus => controlWord 5 3
  | .sysExit => controlWord 6 0
  | .sysBreak => controlWord 6 1
  | .unknown m f => controlWord m f

/-- The bytes a CPU stores to `control` to run a command (R46, R70). -/
def encodeBytes (i : Instr) : List Byte := bytesOfWord (encode i)

/-- The command read from a row of spec/opcode_table.json: one 32-bit word (R70), the bits above `nbits` zero. -/
def decodeTableWord (nbits w : Nat) : Option Instr :=
  if nbits ≤ 32 then
    match decode (bytesOfWord (BitVec.ofNat 32 (w % 2 ^ nbits))) with
    | .ok i => some i
    | .error _ => none
  else none

end Sys2Proof
end

