-- ==== Sys2Proof/Config.lean ====
section
/-! DEFINITION. What an implementation fixes and what the spec leaves open (00_scope.md R6). The lengths the types of the
state rest on have values here; the values the spec calls OPEN, or a draw, are opaque constants: no proof can see what
they are. The numbers a rule computes with (delays, offsets, the motor stub) are in Machine/Params.lean. -/

namespace Sys2Proof

/-- NAME_LEN (R6): the size of the name buffer in bytes. -/
abbrev Config.nameLen : Nat := 8

/-- JOY_BYTES (R6, 90_conflicts.md C1): bytes per joystick record. -/
abbrev Config.joyBytes : Nat := 14

/-- STATUS_LEN (R6): the size of the status block, 3 + 2 * JOY_BYTES = 31. -/
abbrev Config.statusLen : Nat := 3 + 2 * Config.joyBytes

/-- The name buffer's contents (10_state.md R26). -/
abbrev NameBytes := Vector Byte Config.nameLen

/-- The status block in its wire form (10_state.md R27). -/
abbrev StatusBytes := Vector Byte Config.statusLen

/-- `Mode` (41_gpio.md R111). -/
inductive PinMode where
  | analogInput
  | output
  | floatingInput
  | openDrainOutput
  | altFunctionOutput
  | input
  deriving DecidableEq, Repr, Inhabited

/-- The codomain of GPIO_MODE_OF: `Mode ∪ {Unmapped}` (41_gpio.md R111). -/
inductive GpioMode where
  | mode (m : PinMode)
  | unmapped
  deriving DecidableEq, Repr, Inhabited

/-- What the board setup binds an instance to: BASE and IRQ_LINE (R6, 60_exceptions.md R223). -/
structure Binding where
  base : Nat
  irqLine : Nat
  deriving DecidableEq, Repr, Inhabited

/-- One way the platform admits a guest transfer (GUEST_MEM_OK, 20_memory.md R53): any range inside a region, or one
range exactly. Every predicate over finitely many ranges is a list of these. -/
inductive Grant where
  | region (base size : Nat)
  | exactly (addr len : Nat)
  deriving DecidableEq, Repr, Inhabited

/-- GPIO_MODE_OF (R6, 41_gpio.md R111): OPEN, a total function. Log 5. -/
opaque Config.gpioModeOf : Word → GpioMode

/-- EXIT_CODE_MAP (R6, 92_eei_decisions.md D24): what the host makes of the 32-bit exit code. OPEN. Log 5. -/
opaque Config.exitCodeMap : Word → Nat

/-- BASE and IRQ_LINE of the instance in `State.reset` (R6): OPEN. Log 5. -/
opaque Config.binding : Binding

/-- GUEST_MEM_OK of the platform in `State.reset` (R6): OPEN. Log 5. -/
opaque Config.grants : List Grant

/-- NAME_RESET (10_state.md R26): the draw of the k-th reset for instance `inst`. A free value, log 4. -/
opaque Config.nameReset (k inst : Nat) : NameBytes

/-- STATUS_RESET (10_state.md R27): the draw of the k-th reset for instance `inst`. A free value, log 4. -/
opaque Config.statusReset (k inst : Nat) : StatusBytes

/-- The platform's answer for a guest byte the model has not seen stored (20_memory.md R51): the k-th master-port read,
at `addr`. A free value, log 3. -/
opaque Config.guestAnswer (k addr : Nat) : Byte

end Sys2Proof
end

