-- ==== Sys2Proof/Machine/Params.lean ====
section
/-! DEFINITION. The numbers of 00_scope.md R6 that the rules compute with, each with the value the spec gives it. -/

namespace Sys2Proof.Machine

/-- REGION_SIZE (R6): the register window in bytes. -/
abbrev regionSize : Nat := 0xC00

/-- The guest address space ends here: GADDR_WIDTH = 32 (R6, 20_memory.md R50). -/
abbrev guestSpace : Nat := 2 ^ 32

/-- FIRST_TICK_MS (R6): the delay from arming to the first tick. -/
abbrev firstTickMs : Nat := 1

/-- TICK_PERIOD_MS (R6): the re-arm period. -/
abbrev tickPeriodMs : Nat := 10

/-- INIT_DELAY_MS (R6): the handshake threshold. -/
abbrev initDelayMs : Nat := 1000

/-- MOTOR_GET_VALUE (R6, 42_motor.md R120). -/
abbrev motorGetValue : Word := 127

/-- NAME_COPY_LEN (R6, 43_competition.md R133). -/
abbrev nameCopyLen : Nat := 4

end Sys2Proof.Machine
end

