-- ==== Sys2Proof/Machine/Block.lean ====
section
/-! DEFINITION. The state of ONE dispatcher instance (10_state.md R20 to R30, R35) as plain data, the updates of its
fields, and its value after a reset (70_reset_and_hazards.md R300). -/

namespace Sys2Proof.Machine

/-- The names of the register file, `r` in `x[r]` (00_scope.md R8). -/
inductive Reg where
  | control
  | arg1
  | arg2
  | arg3
  | result1
  | result2
  deriving DecidableEq, Repr

/-- `s.sup` (10_state.md R24). -/
inductive Supervisor where
  | uninitialized
  | initialized
  deriving DecidableEq, Repr

/-- The direction of a master-port transfer (20_memory.md R51, R52). -/
inductive Dir where
  | read
  | write
  deriving DecidableEq, Repr

/-- `GuestMemFault(dir, addr, n)` (20_memory.md R53). -/
structure GuestMemFault where
  dir : Dir
  addr : Nat
  len : Nat
  deriving DecidableEq, Repr

/-- One instance: its register file (R20), handshake state (R24, R25), buffers (R26, R27), timer (R28, R35), fault set
(R29) and halt (R30), with the binding the board setup gave it (R6, R223). -/
structure Block where
  bind : Binding
  control : Word
  arg1 : Word
  arg2 : Word
  arg3 : Word
  result1 : Word
  result2 : Word
  sup : Supervisor
  firstSyncDone : Bool
  name : NameBytes
  status : StatusBytes
  deadline : Option Nat
  epoch : Nat
  halted : Option Word
  faults : List GuestMemFault
  deriving DecidableEq, Repr

/-- `x[r]` (R8). -/
def Block.get (b : Block) : Reg → Word
  | .control => b.control
  | .arg1 => b.arg1
  | .arg2 => b.arg2
  | .arg3 => b.arg3
  | .result1 => b.result1
  | .result2 => b.result2

/-- `x[r] <- v` (R8). -/
def Block.set (b : Block) (r : Reg) (v : Word) : Block :=
  match r with
  | .control => { b with control := v }
  | .arg1 => { b with arg1 := v }
  | .arg2 => { b with arg2 := v }
  | .arg3 => { b with arg3 := v }
  | .result1 => { b with result1 := v }
  | .result2 => { b with result2 := v }

/-- `s.sup <- v` (R24). -/
def Block.setSup (b : Block) (v : Supervisor) : Block := { b with sup := v }

/-- `s.firstSyncDone <- v` (R25). -/
def Block.setFirstSync (b : Block) (v : Bool) : Block := { b with firstSyncDone := v }

/-- `s.name <- v` (R26). -/
def Block.setName (b : Block) (v : NameBytes) : Block := { b with name := v }

/-- `s.status <- v` (R27). -/
def Block.setStatus (b : Block) (v : StatusBytes) : Block := { b with status := v }

/-- `s.deadline <- some t` (R28). No rule but the reset disarms the timer. -/
def Block.setDeadline (b : Block) (t : Nat) : Block := { b with deadline := some t }

/-- `s.epoch <- t` (R35). -/
def Block.setEpoch (b : Block) (t : Nat) : Block := { b with epoch := t }

/-- `s.halted <- some c` (R30). -/
def Block.setHalted (b : Block) (c : Word) : Block := { b with halted := some c }

/-- Add a record to the set `s.faults` (R29): a list with no repeats. -/
def Block.addFault (b : Block) (f : GuestMemFault) : Block :=
  { b with faults := if f ∈ b.faults then b.faults else b.faults ++ [f] }

/-- An instance after the k-th reset (70_reset_and_hazards.md R300): every field at the value of R300's table, the two
draws free (log 4), the binding untouched. -/
def Block.afterReset (bind : Binding) (k inst : Nat) : Block :=
  { bind := bind
    control := 0
    arg1 := 0
    arg2 := 0
    arg3 := 0
    result1 := 0
    result2 := 0
    sup := .uninitialized
    firstSyncDone := false
    name := Config.nameReset k inst
    status := Config.statusReset k inst
    deadline := none
    epoch := 0
    halted := none
    faults := [] }

end Sys2Proof.Machine
end

