-- ==== Sys2Proof/Machine/State.lean ====
section
/-! DEFINITION. The machine's state as plain data: the instances, the platform around them that the rules name (virtual
time, guest memory, the output history, the parameters), the queue of the agents' next steps, and the named stops of a
step. `State.reset` is the machine after its first step, the power-on reset (70_reset_and_hazards.md R300, R301). -/

namespace Sys2Proof.Machine

/-- Guest memory (20_memory.md R50): (address, byte) pairs, addresses strictly rising. An address that is not listed
holds no byte the model knows: reading it takes the platform's answer, a free value (log 3). -/
abbrev Memory := List Host.Cell

/-- The canonical form: strictly rising addresses, all in the 32-bit space (R50). -/
abbrev Memory.wf (m : Memory) : Prop :=
  m.Pairwise (fun c d => c.1 < d.1) ∧ ∀ c ∈ m, c.1 < 2 ^ 32

/-- Trace records (00_scope.md R10). -/
inductive TraceRec where
  | serialInit (a1 a2 a3 : Word)
  | serialShutdown (a1 a2 a3 : Word)
  | adcInit (a1 a2 a3 : Word)
  | gpioSetDir (a1 a2 a3 : Word) (mode : GpioMode)
  | gpioSetOutput (a1 a2 a3 : Word)
  | gpioSetIntMask (a1 a2 a3 : Word)
  | motorSet (a1 a2 a3 : Word)
  | motorStopAll (a1 a2 a3 : Word)
  | compStandalone (a1 a2 a3 : Word)
  | setName (n : NameBytes)
  | unknown (m f : Half) (a1 a2 a3 : Word)
  deriving DecidableEq, Repr

/-- Output events (00_scope.md R9). `irq` names the line it pulses (60_exceptions.md R207, R223). -/
inductive OutEvent where
  | irq (line : Nat)
  | serialChar (b : Byte)
  | trace (t : TraceRec)
  | exit (code : Word)
  | guestRead (addr : Nat) (bytes : List Byte)
  | guestWrite (addr : Nat) (bytes : List Byte)
  deriving DecidableEq, Repr

/-- One record of the output history: the event, tagged with `now` (R9). -/
structure OutRecord where
  time : Nat
  event : OutEvent
  deriving DecidableEq, Repr

/-- REINIT_POLICY (R6, 43_competition.md R132). -/
inductive ReinitPolicy where
  | restart
  | refuse
  deriving DecidableEq, Repr

/-- INIT_EPOCH (R6, 10_state.md R35). -/
inductive InitEpoch where
  | clockZero
  | armTime
  deriving DecidableEq, Repr

/-- The parameters a rule consults (00_scope.md R6); no step changes them. -/
structure Params where
  timerExact : Bool
  reinitPolicy : ReinitPolicy
  initEpoch : InitEpoch
  grants : List Grant
  deriving DecidableEq, Repr

/-- A bus access at an offset of the register window (20_memory.md R40). A write's size is the number of its bytes, and
byte `i` of the list is the byte at `off + i` (R46). -/
inductive BusAccess where
  | read (off size : Nat)
  | write (off : Nat) (bytes : List Byte)
  deriving DecidableEq, Repr

/-- One agent's next step (00_scope.md R5). Instance 0 is `blk`, instance k+1 is the k-th of `peers`. -/
inductive Event where
  /-- Bus: an access the platform routed to an instance's window (20_memory.md R40). -/
  | access (inst : Nat) (a : BusAccess)
  /-- Timer: a tick of an instance, with the telemetry source's draw (60_exceptions.md R204). -/
  | tick (inst : Nat) (fresh : StatusBytes)
  /-- Clock: virtual time moves on (60_exceptions.md R201). -/
  | advance (ms : Nat)
  /-- Reset of every instance (70_reset_and_hazards.md R301). -/
  | reset
  /-- The guest CPU stores bytes to guest memory (20_memory.md R61, log 9). -/
  | guestStore (addr : Nat) (bytes : List Byte)
  deriving DecidableEq, Repr

/-- Why a step stops the machine: in each case the spec gives the scheduled agent no step (00_scope.md R11), so the queue
was no run of the machine. All are safe: the model shows no state the hardware lacks. -/
inductive Fault where
  /-- Raised by `step`: an instance has run SYS.EXIT and the run is over (10_state.md R30, 70_reset_and_hazards.md R305). -/
  | runOver
  /-- Raised by `timerStep`: the timer is disarmed or its deadline has not come (60_exceptions.md R202). -/
  | tickNotDue
  /-- Raised by `clockStep`: an advance of 0 ms, or past a deadline under TIMER_EXACT (60_exceptions.md R201). -/
  | clockBlocked
  /-- Raised by `atInst`: the platform has no such instance (60_exceptions.md R223). -/
  | noSuchInstance
  /-- Raised by `busAccess`: the offset is outside the register window, so the access is not to the block (20_memory.md R40). -/
  | outsideWindow
  /-- Raised by `guestStoreStep`: the range leaves guest memory or meets a register window (20_memory.md R50, R55). -/
  | outsideGuestMemory
  deriving DecidableEq, Repr

/-- Why the model gives a step no meaning. -/
inductive Refusal where
  /-- Raised by an arm of `exec` whose instruction has no meaning yet: safe. No arm raises it. -/
  | notModelled (mnemonic : String)
  /-- Raised by COMP.INIT while armed, under REINIT_POLICY = refuse only (43_competition.md R132): safe. -/
  | reinitWhileArmed
  deriving DecidableEq, Repr

/-- The machine. `blk` is the instance an access or a tick is at, `peers` are the others (60_exceptions.md R223). `now`,
`mem` and `history` are the platform's (10_state.md R33). `inputs`, `readData`, `answers` and `resets` are the model's
own: the agents' next steps (log 1), the value the last bus read returned (20_memory.md R40, log 8), and the counters
of the free values (log 3, log 4). -/
structure State where
  blk : Block
  peers : List Block
  now : Nat
  mem : Memory
  history : List OutRecord
  params : Params
  inputs : List Event
  readData : List Byte
  answers : Nat
  resets : Nat
  deriving DecidableEq, Repr

/-- The values R6 gives the parameters; GUEST_MEM_OK is OPEN (log 5). -/
def Params.hardware : Params :=
  { timerExact := true
    reinitPolicy := .restart
    initEpoch := .clockZero
    grants := Config.grants }

/-- The machine after its first step, one reset at power-on (70_reset_and_hazards.md R300, R301): one instance (log 7),
virtual time 0 (60_exceptions.md R200), nothing known of guest memory (log 3), no output, no agent scheduled (log 1). -/
def State.reset : State :=
  { blk := Block.afterReset Config.binding 0 0
    peers := []
    now := 0
    mem := []
    history := []
    params := Params.hardware
    inputs := []
    readData := []
    answers := 0
    resets := 1 }

end Sys2Proof.Machine
end

