-- ==== Sys2Proof/Machine/Ops.lean ====
section
/-! DEFINITION. The named operations the meanings share: guest memory, the output history, the master port with its
admission and its fault, the interrupt pulse, and the instance in focus. The block has no trap entry and no return
(60_exceptions.md R212, R221): what stands for "taking an exception" is `State.guestMemFault` (20_memory.md R53, R220)
and `State.raiseIrq` (60_exceptions.md R207), each written once here. -/

namespace Sys2Proof.Machine

abbrev Answer := Host.Outcome State Fault Refusal

/-! ### Guest memory (20_memory.md R50) -/

/-- The byte known at an address; none where nothing was stored. -/
def Memory.read : Memory → Nat → Option Byte
  | [], _ => none
  | (a, b) :: rest, x => if x = a then some b else Memory.read rest x

/-- Store one byte, keeping the addresses strictly rising. -/
def Memory.write : Memory → Nat → Byte → Memory
  | [], x, v => [(x, v)]
  | (a, b) :: rest, x, v =>
    if x < a then (x, v) :: (a, b) :: rest
    else if x = a then (x, v) :: rest
    else (a, b) :: Memory.write rest x v

/-- Store `v[i]` at `addr + i` (20_memory.md R52), addresses in Nat (R54). -/
def Memory.writeBytes : Memory → Nat → List Byte → Memory
  | m, _, [] => m
  | m, addr, v :: vs => Memory.writeBytes (Memory.write m addr v) (addr + 1) vs

/-! ### Updates of the state -/

/-- Change the instance in focus and nothing else. -/
def State.onBlk (s : State) (f : Block → Block) : State := { s with blk := f s.blk }

/-- `x[r]` (00_scope.md R8). -/
def State.x (s : State) (r : Reg) : Word := s.blk.get r

/-- `x[r] <- v` (00_scope.md R8). -/
def State.setX (s : State) (r : Reg) (v : Word) : State := s.onBlk (fun b => b.set r v)

/-- `emit E`: append to the output history, tagged with `now` (00_scope.md R9). -/
def State.emit (s : State) (e : OutEvent) : State := { s with history := s.history ++ [⟨s.now, e⟩] }

/-- Replace guest memory. -/
def State.setMem (s : State) (m : Memory) : State := { s with mem := m }

/-- Virtual time moves to `t` (60_exceptions.md R201). -/
def State.setNow (s : State) (t : Nat) : State := { s with now := t }

/-- The agents still to move (log 1). -/
def State.setInputs (s : State) (q : List Event) : State := { s with inputs := q }

/-- The value a bus read returns (20_memory.md R41, log 8). -/
def State.setReadData (s : State) (v : List Byte) : State := { s with readData := v }

/-- The next guest read is another draw (log 3). -/
def State.nextAnswer (s : State) : State := { s with answers := s.answers + 1 }

/-- `emit Trace(t)` (00_scope.md R10). -/
def State.emitTrace (s : State) (t : TraceRec) : State := s.emit (.trace t)

/-- One pulse on the instance's IRQ_LINE (60_exceptions.md R207): an event, not a level. -/
def State.raiseIrq (s : State) : State := s.emit (.irq s.blk.bind.irqLine)

/-! ### The instances (60_exceptions.md R223) -/

/-- Every instance, the one in focus first. -/
def State.blocks (s : State) : List Block := s.blk :: s.peers

/-- Instance `k`: 0 is `blk`, k+1 is the k-th of `peers`. -/
def State.inst? (s : State) (k : Nat) : Option Block := s.blocks[k]?

/-- Swap instance `k` with the one in focus; its own inverse. -/
def State.focus (s : State) (k : Nat) : State :=
  match k with
  | 0 => s
  | j + 1 =>
    match s.peers[j]? with
    | some p => { s with blk := p, peers := s.peers.set j s.blk }
    | none => s

/-- Apply a state change to the next state of an answer, and leave a stop alone. -/
def mapNext (f : State → State) : Answer → Answer
  | .next t => .next (f t)
  | .fault r => .fault r
  | .refused r => .refused r

/-- Run one instance's step at instance `k`: bring it into focus, run, put it back (R223). -/
def atInst (k : Nat) (f : State → Answer) (s : State) : Answer :=
  if k ≤ s.peers.length then mapNext (fun t => t.focus k) (f (s.focus k)) else .fault .noSuchInstance

/-- The run is over: SYS.EXIT of any instance ends the process and with it every instance (10_state.md R30, R223, R305). -/
def State.over (s : State) : Bool := s.blocks.any (fun b => b.halted.isSome)

/-! ### The master port (20_memory.md R50 to R54) -/

/-- Does `[addr, addr + n)` overlap a register window? (R53) -/
def overlapsWindow (b : Binding) (addr n : Nat) : Bool :=
  decide (addr < b.base + regionSize) && decide (b.base < addr + n)

/-- Does a grant of the platform cover `[addr, addr + n)`? (log 5) -/
def grantCovers (addr n : Nat) : Grant → Bool
  | .region base size => decide (base ≤ addr) && decide (addr + n ≤ base + size)
  | .exactly a len => decide (addr = a) && decide (n = len)

/-- The range stays in the 32-bit space and meets no instance's register window: without this no transfer is admitted,
whatever the platform (R53, R54). -/
def State.inGuestMemory (s : State) (addr n : Nat) : Bool :=
  decide (addr + n ≤ guestSpace) && s.blocks.all (fun b => !overlapsWindow b.bind addr n)

/-- `GUEST_MEM_OK(addr, n)` (R53). -/
def State.guestMemOk (s : State) (addr n : Nat) : Bool :=
  s.inGuestMemory addr n && s.params.grants.any (grantCovers addr n)

/-- `raise GuestMemFault(dir, addr, n)` (R53, 60_exceptions.md R220): recorded in `s.faults`; nothing moves, nothing is
emitted, nothing on the bus or the interrupt line shows it. -/
def State.guestMemFault (s : State) (dir : Dir) (addr n : Nat) : State :=
  s.onBlk (fun b => b.addFault ⟨dir, addr, n⟩)

/-- The byte the platform answers with at an address: the one known to be there, else its own, a free value (R51, R61,
log 3). -/
def State.guestByte (s : State) (a : Nat) : Byte :=
  match Memory.read s.mem a with
  | some b => b
  | none => Config.guestAnswer s.answers a

/-- `read_guest_memory(addr, n)`: byte `i` from `addr + i` (R51, R54). -/
def State.guestBytes (s : State) (addr n : Nat) : Vector Byte n :=
  Vector.ofFn (fun i => s.guestByte (addr + i.val))

/-- The state after an admitted `MemRead` (R51): the event, and the platform's next answer is another. -/
def State.afterRead (s : State) (addr n : Nat) : State :=
  (s.emit (.guestRead addr (s.guestBytes addr n).toList)).nextAnswer

/-- `MemRead(addr, n)`, then the rest of the command on the bytes; a transfer that is not admitted skips it (R51, R53). -/
def State.memRead (s : State) (addr n : Nat) (rest : Vector Byte n → State → State) : State :=
  if s.guestMemOk addr n then rest (s.guestBytes addr n) (s.afterRead addr n)
  else s.guestMemFault .read addr n

/-- The state after an admitted `MemWrite` (R52): the bytes stored, the event. -/
def State.afterWrite (s : State) (addr : Nat) (bytes : List Byte) : State :=
  (s.setMem (Memory.writeBytes s.mem addr bytes)).emit (.guestWrite addr bytes)

/-- `MemWrite(addr, n, v)`, then the rest of the command; a transfer that is not admitted writes no byte and skips it
(R52, R53). -/
def State.memWrite (s : State) (addr : Nat) (bytes : List Byte) (rest : State → State) : State :=
  if s.guestMemOk addr bytes.length then rest (s.afterWrite addr bytes)
  else s.guestMemFault .write addr bytes.length

/-- A 32-bit value stored by the block into guest memory goes little-endian (R47). No command calls this. -/
def State.memWriteWord (s : State) (addr : Nat) (v : Word) (rest : State → State) : State :=
  s.memWrite addr (bytesOfWord v) rest

end Sys2Proof.Machine
end

