-- ==== Sys2Proof/Machine/Flags.lean ====
section
/-! DEFINITION. The results and the flags. The block has no condition codes (10_state.md R32): what every command does to
the result registers (30_encoding.md R72), and the two flags `s.sup` and `s.firstSyncDone` with their only writers. -/

namespace Sys2Proof.Machine

/-- `x[result1] <- r1; x[result2] <- r2` (10_state.md R23). -/
def State.setResults (s : State) (r1 r2 : Word) : State := (s.setX .result1 r1).setX .result2 r2

/-- The clear at the start of every dispatch (30_encoding.md R72). -/
def State.clearResults (s : State) : State := s.setResults 0 0

/-- The handshake's one transition (10_state.md R24). -/
def State.becomeInitialized (s : State) : State := s.onBlk (fun b => b.setSup .initialized)

/-- `s.firstSyncDone <- true` (10_state.md R25). -/
def State.markSynced (s : State) : State := s.onBlk (fun b => b.setFirstSync true)

end Sys2Proof.Machine
end

