-- ==== Sys2Proof/Machine/Operands.lean ====
section
/-! DEFINITION. The operands of a command (30_encoding.md R71): whole argument registers as they stand at the control
write, the low byte of arg2 for SER.PUTC, and arg1 as a guest address or an exit code. -/

namespace Sys2Proof.Machine

/-- `a1 := x[arg1]` (R71). -/
def State.a1 (s : State) : Word := s.x .arg1

/-- `a2 := x[arg2]` (R71). -/
def State.a2 (s : State) : Word := s.x .arg2

/-- `a3 := x[arg3]` (R71). -/
def State.a3 (s : State) : Word := s.x .arg3

/-- `x[arg2][7:0]`, the character of SER.PUTC (40_serial.md R102). -/
def State.putcByte (s : State) : Byte := s.a2.extractLsb' 0 8

/-- `addr := x[arg1]`, the guest address of a transfer, unsigned (20_memory.md R54). -/
def State.guestAddr (s : State) : Nat := s.a1.toNat

/-- `GPIO_MODE_OF(a2)` (41_gpio.md R111). -/
def State.pinMode (s : State) : GpioMode := Config.gpioModeOf s.a2

/-- A command that only logs its three arguments (00_scope.md R10). -/
def State.traceArgs (s : State) (t : Word → Word → Word → TraceRec) : State :=
  s.emitTrace (t s.a1 s.a2 s.a3)

end Sys2Proof.Machine
end

