-- ==== Sys2Proof/Machine/Competition.lean ====
section
/-! DEFINITION. Module 5, Competition (43_competition.md): arming the telemetry timer, the name buffer and the status
marshaller. -/

namespace Sys2Proof.Machine

/-- COMP.INIT is refused while the timer is armed under REINIT_POLICY = refuse only (R132). -/
def State.reinitRefused (s : State) : Bool := s.blk.deadline.isSome && decide (s.params.reinitPolicy = .refuse)

/-- Arming: the first tick is due FIRST_TICK_MS from now, and under INIT_EPOCH = arm_time the threshold counts from now
(R130, 10_state.md R35). -/
def State.arm (s : State) : State :=
  s.onBlk (fun b =>
    let armed := b.setDeadline (s.now + firstTickMs)
    match s.params.initEpoch with
    | .clockZero => armed
    | .armTime => armed.setEpoch s.now)

/-- COMP.INIT (R130, R132). -/
def execCompInit (s : State) : Answer :=
  if s.reinitRefused then .refused .reinitWhileArmed else .next s.clearResults.arm

/-- COMP.STANDALONE (R131): the block has no such mode; it only logs. -/
def execCompStandalone (s : State) : Answer := .next (s.clearResults.traceArgs .compStandalone)

/-- The name buffer with its first four bytes replaced; bytes 4 to 7 stay (R133, 90_conflicts.md C5). -/
def nameWith (old : NameBytes) (new : Vector Byte nameCopyLen) : NameBytes :=
  Vector.ofFn (fun i => if h : i.val < nameCopyLen then new[i.val] else old[i.val])

/-- Set name once its bytes are read: the copy, and the trace while no sync has happened (R133, 90_conflicts.md C6). -/
def State.takeName (bytes : Vector Byte nameCopyLen) (s : State) : State :=
  let t := s.onBlk (fun b => b.setName (nameWith b.name bytes))
  if s.blk.firstSyncDone then t else t.emitTrace (.setName t.blk.name)

/-- COMP.SETNAME (R133). -/
def execCompSetname (s : State) : Answer :=
  .next (s.clearResults.memRead s.guestAddr nameCopyLen State.takeName)

/-- COMP.GETSTATUS (R134): the serialized snapshot as it stands, then the first sync. -/
def execCompGetstatus (s : State) : Answer :=
  .next (s.clearResults.memWrite s.guestAddr s.blk.status.toList State.markSynced)

end Sys2Proof.Machine
end

