-- ==== Sys2Proof/Machine/Gpio.lean ====
section
/-! DEFINITION. Module 3, GPIO (41_gpio.md). No pin and no ADC is driven; the two reserved commands are matched no-ops. -/

namespace Sys2Proof.Machine

/-- GPIO.ADCINIT (R110). -/
def execGpioAdcinit (s : State) : Answer := .next (s.clearResults.traceArgs .adcInit)

/-- GPIO.SETDIR (R111): the record also carries GPIO_MODE_OF(a2). -/
def execGpioSetdir (s : State) : Answer :=
  .next (s.clearResults.traceArgs (fun a1 a2 a3 => .gpioSetDir a1 a2 a3 s.pinMode))

/-- GPIO.GETIN (R112): reserved, nothing beyond the clear. -/
def execGpioGetin (s : State) : Answer := .next s.clearResults

/-- GPIO.GETOUT (R113): reserved, nothing beyond the clear. -/
def execGpioGetout (s : State) : Answer := .next s.clearResults

/-- GPIO.SETOUT (R114). -/
def execGpioSetout (s : State) : Answer := .next (s.clearResults.traceArgs .gpioSetOutput)

/-- GPIO.SETIMASK (R115): no interrupt is masked (60_exceptions.md R208). -/
def execGpioSetimask (s : State) : Answer := .next (s.clearResults.traceArgs .gpioSetIntMask)

end Sys2Proof.Machine
end

