-- ==== Sys2Proof/Machine/Motor.lean ====
section
/-! DEFINITION. Module 4, Motor (42_motor.md). No motor is driven and no motor state exists. -/

namespace Sys2Proof.Machine

/-- MOT.GET (R120): the fixed stub value, whatever the arguments. -/
def execMotGet (s : State) : Answer := .next (s.clearResults.setX .result1 motorGetValue)

/-- MOT.SET (R121). -/
def execMotSet (s : State) : Answer := .next (s.clearResults.traceArgs .motorSet)

/-- MOT.STOPALL (R122): the telemetry timer goes on. -/
def execMotStopall (s : State) : Answer := .next (s.clearResults.traceArgs .motorStopAll)

end Sys2Proof.Machine
end

