-- ==== Sys2Proof/Machine/Serial.lean ====
section
/-! DEFINITION. Module 0, Serial (40_serial.md). The block configures no UART: two commands log, one emits a byte. -/

namespace Sys2Proof.Machine

/-- SER.INIT (R100). -/
def execSerInit (s : State) : Answer := .next (s.clearResults.traceArgs .serialInit)

/-- SER.SHUTDOWN (R101). -/
def execSerShutdown (s : State) : Answer := .next (s.clearResults.traceArgs .serialShutdown)

/-- SER.PUTC (R102): the low byte of arg2 to the one serial sink; no trace. -/
def execSerPutc (s : State) : Answer := .next (s.clearResults.emit (.serialChar s.putcByte))

/-- The text a `SerialInit` record contains when rendered (R100): unsigned decimal. -/
def serialInitText (a1 a2 a3 : Word) : String :=
  "UART " ++ toString a1.toNat ++ " to " ++ toString a2.toNat ++ "/" ++ toString a3.toNat

end Sys2Proof.Machine
end

