-- ==== Sys2Proof/Machine/System.lean ====
section
/-! DEFINITION. Module 6, System, and the unknown-command fallback (44_system_default.md). -/

namespace Sys2Proof.Machine

/-- SYS.EXIT (R140): all 32 bits of arg1 go into the event and the halt. -/
def execSysExit (s : State) : Answer :=
  .next ((s.clearResults.emit (.exit s.a1)).onBlk (fun b => b.setHalted s.a1))

/-- SYS.BREAK (R141): a debug stub, nothing beyond the clear. -/
def execSysBreak (s : State) : Answer := .next s.clearResults

/-- UNKNOWN (R142): a diagnostic record with both selector halves; no result, no interrupt, no error. -/
def execUnknown (m f : Half) (s : State) : Answer := .next (s.clearResults.traceArgs (.unknown m f))

end Sys2Proof.Machine
end

