-- ==== Sys2Proof/Machine/Dispatch.lean ====
section
/-! DEFINITION. `Dispatch` of 30_encoding.md R72, less the decode: the meaning of each command, on the instance in focus.
The clear of the results is the first thing each meaning does. -/

namespace Sys2Proof.Machine

def exec (i : Instr) (s : State) : Host.Outcome State Fault Refusal :=
  match i with
  | .serInit => Sys2Proof.Machine.execSerInit s
  | .serShutdown => Sys2Proof.Machine.execSerShutdown s
  | .serPutc => Sys2Proof.Machine.execSerPutc s
  | .gpioAdcinit => Sys2Proof.Machine.execGpioAdcinit s
  | .gpioSetdir => Sys2Proof.Machine.execGpioSetdir s
  | .gpioGetin => Sys2Proof.Machine.execGpioGetin s
  | .gpioGetout => Sys2Proof.Machine.execGpioGetout s
  | .gpioSetout => Sys2Proof.Machine.execGpioSetout s
  | .gpioSetimask => Sys2Proof.Machine.execGpioSetimask s
  | .motGet => Sys2Proof.Machine.execMotGet s
  | .motSet => Sys2Proof.Machine.execMotSet s
  | .motStopall => Sys2Proof.Machine.execMotStopall s
  | .compInit => Sys2Proof.Machine.execCompInit s
  | .compStandalone => Sys2Proof.Machine.execCompStandalone s
  | .compSetname => Sys2Proof.Machine.execCompSetname s
  | .compGetstatus => Sys2Proof.Machine.execCompGetstatus s
  | .sysExit => Sys2Proof.Machine.execSysExit s
  | .sysBreak => Sys2Proof.Machine.execSysBreak s
  | .unknown m f => Sys2Proof.Machine.execUnknown m f s

end Sys2Proof.Machine
end

