-- ==== Sys2Proof/Machine/Bus.lean ====
section
/-! DEFINITION. The bus slave port (20_memory.md R40 to R46): read decode, write decode, and the absorption of malformed
accesses and unused offsets. -/

namespace Sys2Proof.Machine

/-- The register at an offset (10_state.md R20). -/
def regAt : Nat → Option Reg
  | 0x00 => some .control
  | 0x04 => some .arg1
  | 0x08 => some .arg2
  | 0x0C => some .arg3
  | 0x10 => some .result1
  | 0x14 => some .result2
  | _ => none

/-- Size 4 and an aligned offset; anything else is malformed (R43). -/
def wellFormedAccess (off size : Nat) : Bool := decide (size = 4) && decide (off % 4 = 0)

/-- The bytes a read returns (R41, R46): a register's four bytes, or zeros, `size` of them (R43, R44). -/
def State.busValue (s : State) (off size : Nat) : List Byte :=
  if wellFormedAccess off size then
    match regAt off with
    | some r => bytesOfWord (s.x r)
    | none => bytesOfWord 0
  else List.replicate size 0

/-- `BusRead` (R41): the value to the CPU, no other effect (R45). -/
def busRead (off size : Nat) (s : State) : Answer := .next (s.setReadData (s.busValue off size))

/-- `Dispatch(v)` after `x[control] <- v` (R42, 30_encoding.md R72). -/
def dispatch (v : Word) (s : State) : Answer := exec (decodeWord v) (s.setX .control v)

/-- What a well-formed write of `v` does at a register (R42): `control` dispatches, the arguments store, the results
ignore it (RESULT_WRITE = ignore). -/
def writeReg (r : Reg) (v : Word) (s : State) : Answer :=
  match r with
  | .control => dispatch v s
  | .arg1 => .next (s.setX .arg1 v)
  | .arg2 => .next (s.setX .arg2 v)
  | .arg3 => .next (s.setX .arg3 v)
  | .result1 => .next s
  | .result2 => .next s

/-- `BusWrite` (R42): a malformed access or an unused offset changes nothing (R43, R44). -/
def busWrite (off : Nat) (bytes : List Byte) (s : State) : Answer :=
  if wellFormedAccess off bytes.length then
    match regAt off, wordOfBytes bytes with
    | some r, some v => writeReg r v s
    | _, _ => .next s
  else .next s

/-- The offset of an access (R40). -/
def BusAccess.offset : BusAccess → Nat
  | .read off _ => off
  | .write off _ => off

/-- One bus access (R40): its offset lies in the register window, else the platform did not route it here. -/
def busAccess (a : BusAccess) (s : State) : Answer :=
  if a.offset < regionSize then
    match a with
    | .read off size => busRead off size s
    | .write off bytes => busWrite off bytes s
  else .fault .outsideWindow

end Sys2Proof.Machine
end

