-- ==== Sys2Proof/Machine/Timer.lean ====
section
/-! DEFINITION. Virtual time, the telemetry tick and the handshake (60_exceptions.md R200 to R207). -/

namespace Sys2Proof.Machine

/-- Is a tick of the instance in focus enabled? (R202) -/
def State.tickDue (s : State) : Bool :=
  match s.blk.deadline with
  | none => false
  | some d => decide (d ≤ s.now)

/-- Every tick ends so (R203). -/
def State.rearm (s : State) : State := s.onBlk (fun b => b.setDeadline (s.now + tickPeriodMs))

/-- The tick that completes the handshake (R205). -/
def State.handshakeTick (s : State) : State := ((s.setResults 0 0).becomeInitialized).raiseIrq

/-- A tick after the handshake (R206). -/
def State.initializedTick (s : State) : State := (s.setResults 1 0).raiseIrq

/-- Has the threshold come? The comparison is inclusive (R204). -/
def State.thresholdReached (s : State) : Bool := decide (initDelayMs ≤ s.now - s.blk.epoch)

/-- The tick before its re-arm: a tick that raises the interrupt takes the fresh status, an earlier one does nothing
(R204, 90_conflicts.md C4). -/
def State.tickBody (fresh : StatusBytes) (s : State) : State :=
  match s.blk.sup with
  | .uninitialized =>
    if s.thresholdReached then (s.onBlk (fun b => b.setStatus fresh)).handshakeTick else s
  | .initialized => (s.onBlk (fun b => b.setStatus fresh)).initializedTick

/-- `Tick(fresh)` (R204). -/
def State.tick (fresh : StatusBytes) (s : State) : State := (s.tickBody fresh).rearm

/-- The Timer agent's step (R202, R204). -/
def timerStep (fresh : StatusBytes) (s : State) : Answer :=
  if s.tickDue then .next (s.tick fresh) else .fault .tickNotDue

/-- Is the advance within an instance's deadline? (R201) -/
def withinDeadline (t : Nat) (b : Block) : Bool :=
  match b.deadline with
  | none => true
  | some d => decide (t ≤ d)

/-- Is an advance by `ms` enabled? Under TIMER_EXACT time passes no instance's deadline (R201). -/
def State.mayAdvance (s : State) (ms : Nat) : Bool :=
  decide (1 ≤ ms) && (!s.params.timerExact || s.blocks.all (withinDeadline (s.now + ms)))

/-- The Clock agent's step, `Advance(ms)` (R201). -/
def clockStep (ms : Nat) (s : State) : Answer :=
  if s.mayAdvance ms then .next (s.setNow (s.now + ms)) else .fault .clockBlocked

end Sys2Proof.Machine
end

