-- ==== Sys2Proof/Machine/Agents.lean ====
section
/-! DEFINITION. One step of each agent (00_scope.md R5): the reset of every instance, the guest CPU's stores to its own
memory, and the event that says which agent moves. -/

namespace Sys2Proof.Machine

/-- The reset of every instance (70_reset_and_hazards.md R300, R301): no event, guest memory and `now` as they were. -/
def resetAll (s : State) : State :=
  { s with
    blk := Block.afterReset s.blk.bind s.resets 0
    peers := s.peers.mapIdx (fun i p => Block.afterReset p.bind s.resets (i + 1))
    resets := s.resets + 1 }

/-- The guest CPU stores bytes to guest memory (20_memory.md R61, log 9): no instance sees it but through a later
transfer. -/
def guestStoreStep (addr : Nat) (bytes : List Byte) (s : State) : Answer :=
  if s.inGuestMemory addr bytes.length then .next (s.setMem (Memory.writeBytes s.mem addr bytes))
  else .fault .outsideGuestMemory

/-- The step of the agent an event names (R5). -/
def runEvent (e : Event) (s : State) : Answer :=
  match e with
  | .access k a => atInst k (busAccess a) s
  | .tick k fresh => atInst k (timerStep fresh) s
  | .advance ms => clockStep ms s
  | .reset => .next (resetAll s)
  | .guestStore addr bytes => guestStoreStep addr bytes s

end Sys2Proof.Machine
end

