-- ==== Sys2Proof/Machine/Step.lean ====
section
/-! DEFINITION. One step of the machine: the next agent in the queue moves, atomically (20_memory.md R60). -/

namespace Sys2Proof.Machine

/-- After SYS.EXIT no agent has a step (10_state.md R30, 70_reset_and_hazards.md R305). With no agent scheduled the block
waits (R302, log 1). Otherwise the first event of the queue is one atomic step (00_scope.md R5). -/
def step (s : State) : Host.Outcome State Fault Refusal :=
  if s.over then .fault .runOver
  else
    match s.inputs with
    | [] => .next s
    | e :: rest => runEvent e (s.setInputs rest)

/-- The guest CPU's next access is the control write of the word (20_memory.md R42, 10_state.md R31): the block fetches
nothing, so this is where the next command comes from (log 1). -/
def State.withFetchWord (s : State) (nbits w : Nat) : State :=
  s.setInputs (.access 0 (.write 0x00 (bytesOfWord (BitVec.ofNat 32 (w % 2 ^ nbits)))) :: s.inputs)

end Sys2Proof.Machine
end

