-- ==== Sys2Proof/Machine/Marshal.lean ====
section
/-! DEFINITION. The marshaller's byte layout (43_competition.md R135, 10_state.md R27). The block keeps the status block
in serialized form, so get status copies it as it stands; the field names are for readers. -/

namespace Sys2Proof.Machine

/-- One joystick record: 6 axis bytes, 2 button bytes, 6 reserved bytes (R27, 90_conflicts.md C1). -/
structure Joystick where
  axis : Vector Byte 6
  buttons : Vector Byte 2
  reserved : Vector Byte 6
  deriving DecidableEq, Repr

/-- The telemetry snapshot by fields (R27). -/
structure StatusBlock where
  gameStatus : Byte
  mainBattery : Byte
  backupBattery : Byte
  joy0 : Joystick
  joy1 : Joystick
  deriving DecidableEq, Repr

/-- `Joy(j)` (R135). -/
def joyList (j : Joystick) : List Byte := j.axis.toList ++ j.buttons.toList ++ j.reserved.toList

/-- The bytes of `Serialize(st)` in order (R135): no padding between fields. -/
def serializeList (st : StatusBlock) : List Byte :=
  [st.gameStatus, st.mainBattery, st.backupBattery] ++ joyList st.joy0 ++ joyList st.joy1

/-- `Serialize(st)` (R135): 3 + 2 * JOY_BYTES = 31 bytes. -/
def serialize (st : StatusBlock) : StatusBytes :=
  ⟨(serializeList st).toArray, by simp [serializeList, joyList, Config.statusLen, Config.joyBytes]⟩

/-- The record whose bytes start at offset `o`: axes at +0, buttons at +6, reserved at +8 (R27). -/
def joystickAt (b : StatusBytes) (o : Nat) (h : o + 14 ≤ 31) : Joystick :=
  { axis := Vector.ofFn (fun i => b[o + i.val]'(by have := i.isLt; simp only [Config.statusLen, Config.joyBytes]; omega))
    buttons := Vector.ofFn (fun i => b[o + 6 + i.val]'(by have := i.isLt; simp only [Config.statusLen, Config.joyBytes]; omega))
    reserved := Vector.ofFn (fun i => b[o + 8 + i.val]'(by have := i.isLt; simp only [Config.statusLen, Config.joyBytes]; omega)) }

/-- `Deserialize(b)`: the inverse split at the same offsets (R135). -/
def deserialize (b : StatusBytes) : StatusBlock :=
  { gameStatus := b[0]'(by decide)
    mainBattery := b[1]'(by decide)
    backupBattery := b[2]'(by decide)
    joy0 := joystickAt b 3 (by decide)
    joy1 := joystickAt b 17 (by decide) }

end Sys2Proof.Machine
end

