-- ==== Sys2Proof/Machine/Program.lean ====
section
/-! DEFINITION. The bus-program notation of 30_encoding.md R77, as the queue of steps each line stands for, at instance 0.
It is notation only: it says which events to put into `State.inputs`, and gives no step a meaning of its own. -/

namespace Sys2Proof.Machine

/-- A line of a bus program (R77); an `adv` carries the draws of the ticks it fires. -/
inductive Line where
  | wr32 (off : Nat) (v : Word)
  | rd32 (off : Nat)
  | wr16 (off : Nat) (v : Half)
  | rd16 (off : Nat)
  | wr8 (off : Nat) (v : Byte)
  | rd8 (off : Nat)
  | adv (ms : Nat) (draws : List StatusBytes)
  | gmem (addr : Nat) (bytes : List Byte)
  deriving DecidableEq, Repr

/-- The clock steps from `now` to `target`: none where no time passes. -/
def advanceTo (now target : Nat) : List Event := if now < target then [.advance (target - now)] else []

/-- `ADV` up to `target` (R77): every tick that falls due on the way runs before the clock moves past its deadline, a tick
at `target` included, and each tick re-arms TICK_PERIOD_MS later (60_exceptions.md R201, R203). -/
def advEvents (now target : Nat) : Option Nat → List StatusBytes → List Event
  | some d, f :: fs =>
    if d ≤ target then advanceTo now d ++ .tick 0 f :: advEvents (max now d) target (some (max now d + tickPeriodMs)) fs
    else advanceTo now target
  | _, _ => advanceTo now target

/-- The steps of a line, run at `now` with the deadline as it stands (R77). -/
def Line.events (now : Nat) (deadline : Option Nat) : Line → List Event
  | .wr32 off v => [.access 0 (.write off (bytesOfWord v))]
  | .rd32 off => [.access 0 (.read off 4)]
  | .wr16 off v => [.access 0 (.write off [v.extractLsb' 0 8, v.extractLsb' 8 8])]
  | .rd16 off => [.access 0 (.read off 2)]
  | .wr8 off v => [.access 0 (.write off [v])]
  | .rd8 off => [.access 0 (.read off 1)]
  | .adv ms draws => advEvents now (now + ms) deadline draws
  | .gmem addr bytes => [.guestStore addr bytes]

/-- `CMD <mnemonic>` (R77). -/
def Line.cmd (i : Instr) : Line := .wr32 0x00 (encode i)

/-- `CMDW m, f` (R77). -/
def Line.cmdw (m f : Half) : Line := .wr32 0x00 (controlWord m f)

/-- `ARGS a, b, c` (R77). -/
def Line.args (a b c : Word) : List Line := [.wr32 0x04 a, .wr32 0x08 b, .wr32 0x0C c]

end Sys2Proof.Machine
end

