-- ==== Sys2Proof/Machine/Runs.lean ====
section
/-! DEFINITION. Infinite runs and the weak fairness of the Timer agent (60_exceptions.md R226). `step` imposes no fairness:
it takes the agent the queue names (log 1). A claim that a tick comes takes `WeaklyFair` as a premise (log 14). -/

namespace Sys2Proof.Machine

/-- Has the Timer agent a step at instance `k`? (R202) -/
def State.mayTick (s : State) (k : Nat) : Bool := !s.over && decide (k ≤ s.peers.length) && (s.focus k).tickDue

/-- An infinite run: in state `run i` the agent of `agent i` moves, or none does, and `run (i + 1)` is the next state. A run
that SYS.EXIT ends is finite (70_reset_and_hazards.md R305), and no agent of it waits for a step. -/
def IsRun (agent : Nat → Option Event) (run : Nat → State) : Prop :=
  ∀ i, step ((run i).setInputs (agent i).toList) = .next (run (i + 1))

/-- Weak fairness of the Timer agent: a tick that stays enabled is eventually taken. No fairness of the Clock or of any other
agent is asked (R226). -/
def WeaklyFair (agent : Nat → Option Event) (run : Nat → State) : Prop :=
  ∀ k i, (∀ j, i ≤ j → (run j).mayTick k = true) → ∃ j, i ≤ j ∧ ∃ fresh, agent j = some (.tick k fresh)

end Sys2Proof.Machine
end

