-- ==== Sys2Proof/Safety.lean ====
section
/-! DEFINITION. What counts as a finished run, what is seen of it, and the invariant of every run (70_reset_and_hazards.md
R305, 60_exceptions.md R200 to R204, R220). -/

namespace Sys2Proof.Machine

/-- No instance has recorded a fault: the premise of every claim about a run (10_state.md R34, R220). -/
def State.faultFree (s : State) : Bool := s.blocks.all (fun b => b.faults.isEmpty)

/-- A final state: SYS.EXIT has run and no fault is recorded (R220, R305). -/
def State.final (s : State) : Bool := s.over && s.faultFree

/-- The 32-bit exit code of the run, of the instance that exited (R140, R305). -/
def State.exitCode (s : State) : Option Word := s.blocks.findSome? (fun b => b.halted)

/-- What the host makes of it: EXIT_CODE_MAP (R6, 92_eei_decisions.md D24). -/
def State.hostExit (s : State) : Option Nat := s.exitCode.map Config.exitCodeMap

/-- The final observation of a run: the output history and guest memory (R305). -/
structure Observation where
  history : List OutRecord
  mem : Memory
  deriving DecidableEq, Repr

/-- The final observation, of a final state only (R305, R220). -/
def State.observe (s : State) : Option Observation := if s.final then some ⟨s.history, s.mem⟩ else none

/-- Is a record a pulse on `line`? -/
def OutRecord.isIrq (line : Nat) (r : OutRecord) : Bool := decide (r.event = .irq line)

/-- The times of the pulses on a line, in step order (60_exceptions.md R207). -/
def irqTimes (line : Nat) (h : List OutRecord) : List Nat := (h.filter (fun r => r.isIrq line)).map (fun r => r.time)

/-- What holds of one instance at virtual time `now` in every state of a run. -/
structure Block.Inv (p : Params) (now : Nat) (history : List OutRecord) (b : Block) : Prop where
  /-- `s.epoch ≤ now` always holds (60_exceptions.md R204). -/
  epoch_past : b.epoch ≤ now
  /-- Under clock_zero nothing writes the epoch (10_state.md R35). -/
  epoch_zero : p.initEpoch = .clockZero → b.epoch = 0
  /-- Under TIMER_EXACT time has passed no deadline (R201). -/
  on_time : p.timerExact = true → ∀ d, b.deadline = some d → now ≤ d
  /-- The next tick is at most TICK_PERIOD_MS away (R130, R203). -/
  deadline_near : ∀ d, b.deadline = some d → d ≤ now + tickPeriodMs
  /-- The loop never stops once it runs (R203, 10_state.md R28). -/
  initialized_armed : b.sup = .initialized → b.deadline ≠ none
  /-- Under clock_zero the handshake comes no earlier than the threshold (R204). -/
  handshake_late : p.initEpoch = .clockZero → b.sup = .initialized → initDelayMs ≤ now
  /-- `s.faults` is a set (10_state.md R29). -/
  faults_nodup : b.faults.Nodup
  /-- The history of a finished run ends with its `Exit` (R305). -/
  exit_last : ∀ c, b.halted = some c → history.getLast? = some ⟨now, .exit c⟩

/-- What holds in every state of a run: guest memory is in its canonical form, every output is tagged with a time that
has come, in step order (00_scope.md R9), and each instance meets its own invariant. -/
structure State.Inv (s : State) : Prop where
  mem_wf : Memory.wf s.mem
  history_past : ∀ r ∈ s.history, r.time ≤ s.now
  history_ordered : s.history.Pairwise (fun r q => r.time ≤ q.time)
  blocks_inv : ∀ b ∈ s.blocks, b.Inv s.params s.now s.history

/-- A train of ticks of the instance in focus, one period apart: the schedule of 60_exceptions.md R211 after its first
tick. -/
def tickTrain : List StatusBytes → List Event
  | [] => []
  | f :: fs => .advance tickPeriodMs :: .tick 0 f :: tickTrain fs

/-- The times of `n` ticks, the first at `t` (R211). -/
def tickTimes (t : Nat) : Nat → List Nat
  | 0 => []
  | n + 1 => t :: tickTimes (t + tickPeriodMs) n

end Sys2Proof.Machine
end

