-- ==== Sys2Proof/Certificates/Slice0/Obligations.lean ====
section
/-! DEFINITION. The statements about the dispatcher, each from the numbered rules of spec/ its docstring names. A statement
about an instance speaks of the instance in focus (`blk`) where it is about an operation, and of instance `k` of a state
(`inst?`) where it is about a step. -/

open Sys2Proof Sys2Proof.Machine

/-! ### Encoding -/

/-- The 18 words of R73, and two words beside them (95_test_vectors.md V-E3, V-E10). -/
def Obligations.TableWordsDecode : Prop :=
  decodeWord 0x00000000 = .serInit ∧ decodeWord 0x00000001 = .serShutdown ∧ decodeWord 0x00000002 = .serPutc ∧
  decodeWord 0x00030000 = .gpioAdcinit ∧ decodeWord 0x00030001 = .gpioSetdir ∧ decodeWord 0x00030002 = .gpioGetin ∧
  decodeWord 0x00030003 = .gpioGetout ∧ decodeWord 0x00030004 = .gpioSetout ∧ decodeWord 0x00030005 = .gpioSetimask ∧
  decodeWord 0x00040000 = .motGet ∧ decodeWord 0x00040001 = .motSet ∧ decodeWord 0x00040002 = .motStopall ∧
  decodeWord 0x00050000 = .compInit ∧ decodeWord 0x00050001 = .compStandalone ∧ decodeWord 0x00050002 = .compSetname ∧
  decodeWord 0x00050003 = .compGetstatus ∧ decodeWord 0x00060000 = .sysExit ∧ decodeWord 0x00060001 = .sysBreak ∧
  decodeWord 0x00010000 = .unknown 1 0 ∧ decodeWord 0x01000000 = .unknown 256 0

/-- Decoding the bytes a well-formed command is written with gives it back (R70, R73, R74). -/
def Obligations.DecodeOfEncodeIsTheCommand : Prop :=
  ∀ i : Instr, i.wf = true → decode (encodeBytes i) = .ok i

/-- Every 32-bit word is the word of exactly the well-formed command it decodes to: none is illegal (R74). -/
def Obligations.EveryWordIsOneCommand : Prop :=
  ∀ v : Word, (decodeWord v).wf = true ∧ encode (decodeWord v) = v ∧
    ∀ i : Instr, i.wf = true → encode i = v → i = decodeWord v

/-- R74: the words that run UNKNOWN are exactly those of the listed modules and functions; every word decodes, and no word
traps in any state. -/
def Obligations.UnassignedWordsAreUnknown : Prop :=
  ∀ m f : Half,
    (decodeWord (controlWord m f) = .unknown m f ↔
      m.toNat = 1 ∨ m.toNat = 2 ∨ 7 ≤ m.toNat ∨ (m.toNat = 0 ∧ 3 ≤ f.toNat) ∨ (m.toNat = 3 ∧ 6 ≤ f.toNat) ∨
      (m.toNat = 4 ∧ 3 ≤ f.toNat) ∨ (m.toNat = 5 ∧ 4 ≤ f.toNat) ∨ (m.toNat = 6 ∧ 2 ≤ f.toNat)) ∧
    decode (bytesOfWord (controlWord m f)) = .ok (decodeWord (controlWord m f)) ∧
    ∀ (s : State) (r : Fault), exec (decodeWord (controlWord m f)) s ≠ .fault r

/-- R70: module in bits 31:16, function in bits 15:0; a word is written `(module << 16) | function`; a command is exactly
one 32-bit word. -/
def Obligations.ControlWordHasTwoHalves : Prop :=
  (∀ v : Word, (moduleOf v).toNat = v.toNat / 65536 ∧ (functionOf v).toNat = v.toNat % 65536) ∧
  (∀ m f : Half, (controlWord m f).toNat = m.toNat * 65536 + f.toNat) ∧
  ∀ bytes : List Byte, (∃ i, decode bytes = .ok i) ↔ bytes.length = 4

/-- R46: the bytes of a 4-byte access are little-endian both ways. -/
def Obligations.AccessBytesAreLittleEndian : Prop :=
  (∀ b0 b1 b2 b3 : Byte, ∃ v, wordOfBytes [b0, b1, b2, b3] = some v ∧
    v.toNat = b0.toNat + 256 * b1.toNat + 65536 * b2.toNat + 16777216 * b3.toNat ∧ bytesOfWord v = [b0, b1, b2, b3]) ∧
  ∀ v : Word, wordOfBytes (bytesOfWord v) = some v ∧
    ∀ i < 4, ((bytesOfWord v)[i]?).map BitVec.toNat = some (v.toNat / 2 ^ (8 * i) % 256)

/-! ### The bus port -/

/-- A step whose next access is a well-formed write of `control` at instance `k` stores the word and runs the command the
bytes decode to, on that instance, in the same step (20_memory.md R42, 30_encoding.md R72, 10_state.md R31). -/
def Obligations.StepRunsTheDecodedCommand : Prop :=
  ∀ (s : State) (k : Nat) (bytes : List Byte) (rest : List Event) (v : Word) (i : Instr),
    s.over = false → k ≤ s.peers.length → s.inputs = .access k (.write 0x00 bytes) :: rest →
    wordOfBytes bytes = some v → decode bytes = .ok i →
    step s = mapNext (fun t => t.focus k) (exec i ((({ s with inputs := rest } : State).focus k).setX .control v))

/-- The command placed for the host is the next thing that runs (20_memory.md R42). -/
def Obligations.FetchWordIsTheNextCommand : Prop :=
  ∀ (s : State) (w : Nat), s.over = false → w < 2 ^ 32 →
    step (s.withFetchWord 32 w) = exec (decodeWord (BitVec.ofNat 32 w)) (s.setX .control (BitVec.ofNat 32 w))

/-- R43: an access that is not four bytes wide, or not aligned, reads 0 and writes nothing, at every offset of every
instance's window. -/
def Obligations.MalformedAccessesAreAbsorbed : Prop :=
  ∀ (s : State) (k off : Nat) (rest : List Event), s.over = false → k ≤ s.peers.length → off < 0xC00 →
    (∀ size, (size ≠ 4 ∨ off % 4 ≠ 0) → s.inputs = .access k (.read off size) :: rest →
      step s = .next { s with inputs := rest, readData := List.replicate size 0 }) ∧
    ∀ bytes, (bytes.length ≠ 4 ∨ off % 4 ≠ 0) → s.inputs = .access k (.write off bytes) :: rest →
      step s = .next { s with inputs := rest }

/-- R44: the aligned offsets above the registers read 0 and ignore writes. -/
def Obligations.UnusedOffsetsReadZero : Prop :=
  ∀ (s : State) (k off : Nat) (rest : List Event), s.over = false → k ≤ s.peers.length →
    0x18 ≤ off → off < 0xC00 → off % 4 = 0 →
    (s.inputs = .access k (.read off 4) :: rest →
      step s = .next { s with inputs := rest, readData := [0, 0, 0, 0] }) ∧
    ∀ bytes, bytes.length = 4 → s.inputs = .access k (.write off bytes) :: rest →
      step s = .next { s with inputs := rest }

/-- A well-formed read of each register offset returns that register of that instance and changes nothing else (R41). -/
def Obligations.RegisterReadsReturnTheRegister : Prop :=
  ∀ (s : State) (k : Nat) (b : Block) (rest : List Event) (off : Nat) (v : Word),
    s.over = false → s.inst? k = some b → s.inputs = .access k (.read off 4) :: rest →
    ((off = 0x00 ∧ v = b.control) ∨ (off = 0x04 ∧ v = b.arg1) ∨ (off = 0x08 ∧ v = b.arg2) ∨
      (off = 0x0C ∧ v = b.arg3) ∨ (off = 0x10 ∧ v = b.result1) ∨ (off = 0x14 ∧ v = b.result2)) →
    step s = .next { s with inputs := rest, readData := bytesOfWord v }

/-- R42: what a bus write does: nothing where it is malformed, else what its offset says; the control word reads back after
its command. -/
def Obligations.BusWriteDecodesByOffset : Prop :=
  (∀ (s : State) (off : Nat) (bytes : List Byte), (bytes.length ≠ 4 ∨ off % 4 ≠ 0) → busWrite off bytes s = .next s) ∧
  ∀ (s : State) (bytes : List Byte) (v : Word), wordOfBytes bytes = some v →
    busWrite 0x00 bytes s = exec (decodeWord v) { s with blk := { s.blk with control := v } } ∧
    (∀ t, busWrite 0x00 bytes s = .next t → t.blk.control = v) ∧
    busWrite 0x04 bytes s = .next { s with blk := { s.blk with arg1 := v } } ∧
    busWrite 0x08 bytes s = .next { s with blk := { s.blk with arg2 := v } } ∧
    busWrite 0x0C bytes s = .next { s with blk := { s.blk with arg3 := v } } ∧
    busWrite 0x10 bytes s = .next s ∧ busWrite 0x14 bytes s = .next s ∧
    ∀ off, off ≠ 0x00 → off ≠ 0x04 → off ≠ 0x08 → off ≠ 0x0C → off ≠ 0x10 → off ≠ 0x14 → busWrite off bytes s = .next s

/-- What R45 infers from R41 and R42: a read changes nothing, so two in a row return the same value; writing an argument twice is writing it once;
writing `control` dispatches each time, also when the word is the one held. -/
def Obligations.ReadsAndArgumentWritesAreIdempotent : Prop :=
  (∀ (s : State) (off size : Nat), ∃ value : List Byte, value.length = size ∧
    busRead off size s = .next { s with readData := value } ∧
    busRead off size { s with readData := value } = .next { s with readData := value }) ∧
  (∀ (s t : State) (off : Nat) (bytes : List Byte), (off = 0x04 ∨ off = 0x08 ∨ off = 0x0C) →
    busWrite off bytes s = .next t → busWrite off bytes t = .next t) ∧
  (∀ (s : State) (bytes : List Byte) (v : Word), wordOfBytes bytes = some v → s.blk.control = v →
    busWrite 0x00 bytes s = exec (decodeWord v) s) ∧
  ∃ (s t u : State) (bytes : List Byte), busWrite 0x00 bytes s = .next t ∧ busWrite 0x00 bytes t = .next u ∧ u ≠ t

/-- The model's stop: an offset outside the register window is no access to the block (R40, log 2). -/
def Obligations.AccessOutsideTheWindowStops : Prop :=
  ∀ (s : State) (k off size : Nat) (bytes : List Byte) (rest : List Event), s.over = false → k ≤ s.peers.length →
    0xC00 ≤ off →
    (s.inputs = .access k (.read off size) :: rest → step s = .fault .outsideWindow) ∧
    (s.inputs = .access k (.write off bytes) :: rest → step s = .fault .outsideWindow)

/-! ### The commands -/

/-- SER.INIT completes: one trace record, results 0, nothing else; its word; the record's text (R100). -/
def Obligations.SerInitLogsItsArguments : Prop :=
  decodeWord 0x00000000 = .serInit ∧
  (∀ s : State, exec .serInit s = .next { s with
    blk := { s.blk with result1 := 0, result2 := 0 }
    history := s.history ++ [⟨s.now, .trace (.serialInit s.blk.arg1 s.blk.arg2 s.blk.arg3)⟩] }) ∧
  (∀ a1 a2 a3 : Word, serialInitText a1 a2 a3 =
    "UART " ++ Nat.repr a1.toNat ++ " to " ++ Nat.repr a2.toNat ++ "/" ++ Nat.repr a3.toNat) ∧
  serialInitText 5 12000000 1 = "UART 5 to 12000000/1"

/-- SER.SHUTDOWN completes: one trace record, results 0, nothing else (R101). -/
def Obligations.SerShutdownOnlyLogs : Prop :=
  decodeWord 0x00000001 = .serShutdown ∧ ∀ s : State, exec .serShutdown s = .next { s with
    blk := { s.blk with result1 := 0, result2 := 0 }
    history := s.history ++ [⟨s.now, .trace (.serialShutdown s.blk.arg1 s.blk.arg2 s.blk.arg3)⟩] }

/-- SER.PUTC completes: the low byte of arg2 to the serial sink, no trace, results 0, nothing else (R102). -/
def Obligations.SerPutcEmitsTheLowByte : Prop :=
  decodeWord 0x00000002 = .serPutc ∧ ∀ s : State, ∃ c : Byte, c.toNat = s.blk.arg2.toNat % 256 ∧ exec .serPutc s = .next { s with
    blk := { s.blk with result1 := 0, result2 := 0 }
    history := s.history ++ [⟨s.now, .serialChar c⟩] }

/-- GPIO.ADCINIT completes: one trace record, results 0, nothing else (R110). -/
def Obligations.GpioAdcinitOnlyLogs : Prop :=
  decodeWord 0x00030000 = .gpioAdcinit ∧ ∀ s : State, exec .gpioAdcinit s = .next { s with
    blk := { s.blk with result1 := 0, result2 := 0 }
    history := s.history ++ [⟨s.now, .trace (.adcInit s.blk.arg1 s.blk.arg2 s.blk.arg3)⟩] }

/-- GPIO.SETDIR completes: one trace record with GPIO_MODE_OF(arg2), results 0, nothing else (R111). -/
def Obligations.GpioSetdirLogsTheMode : Prop :=
  decodeWord 0x00030001 = .gpioSetdir ∧ ∀ s : State, exec .gpioSetdir s = .next { s with
    blk := { s.blk with result1 := 0, result2 := 0 }
    history := s.history ++
      [⟨s.now, .trace (.gpioSetDir s.blk.arg1 s.blk.arg2 s.blk.arg3 (Config.gpioModeOf s.blk.arg2))⟩] }

/-- GPIO.GETIN and GPIO.GETOUT complete as no-ops: results 0, no event, nothing else (R112, R113, R75). -/
def Obligations.GpioReservedCommandsOnlyClear : Prop :=
  ∀ s : State,
    exec .gpioGetin s = .next { s with blk := { s.blk with result1 := 0, result2 := 0 } } ∧
    exec .gpioGetout s = .next { s with blk := { s.blk with result1 := 0, result2 := 0 } } ∧
    decodeWord 0x00030002 = .gpioGetin ∧ decodeWord 0x00030003 = .gpioGetout

/-- GPIO.SETOUT and GPIO.SETIMASK complete: one trace record each, results 0, nothing else (R114, R115). -/
def Obligations.GpioSetoutAndMaskOnlyLog : Prop :=
  decodeWord 0x00030004 = .gpioSetout ∧ decodeWord 0x00030005 = .gpioSetimask ∧ ∀ s : State,
    exec .gpioSetout s = .next { s with
      blk := { s.blk with result1 := 0, result2 := 0 }
      history := s.history ++ [⟨s.now, .trace (.gpioSetOutput s.blk.arg1 s.blk.arg2 s.blk.arg3)⟩] } ∧
    exec .gpioSetimask s = .next { s with
      blk := { s.blk with result1 := 0, result2 := 0 }
      history := s.history ++ [⟨s.now, .trace (.gpioSetIntMask s.blk.arg1 s.blk.arg2 s.blk.arg3)⟩] }

/-- MOT.GET completes: result1 is 127 and result2 0 whatever the arguments, no event, nothing else. A tick after it makes
result1 1 once Initialized, and the handshake tick makes it 0 (R120). -/
def Obligations.MotGetAnswers127 : Prop :=
  decodeWord 0x00040000 = .motGet ∧
  (∀ s : State, exec .motGet s = .next { s with blk := { s.blk with result1 := 0x7F, result2 := 0 } }) ∧
  ∀ (s t u : State) (fresh : StatusBytes), exec .motGet s = .next t → timerStep fresh t = .next u →
    (s.blk.sup = .initialized → u.blk.result1 = 1) ∧
    (s.blk.sup = .uninitialized → 1000 ≤ s.now - s.blk.epoch → u.blk.result1 = 0)

/-- MOT.SET and MOT.STOPALL complete: one trace record each, results 0, nothing else; a later MOT.GET still answers 127
(R121, R122). -/
def Obligations.MotSetAndStopallOnlyLog : Prop :=
  decodeWord 0x00040001 = .motSet ∧ decodeWord 0x00040002 = .motStopall ∧ ∀ s : State,
    exec .motSet s = .next { s with
      blk := { s.blk with result1 := 0, result2 := 0 }
      history := s.history ++ [⟨s.now, .trace (.motorSet s.blk.arg1 s.blk.arg2 s.blk.arg3)⟩] } ∧
    exec .motStopall s = .next { s with
      blk := { s.blk with result1 := 0, result2 := 0 }
      history := s.history ++ [⟨s.now, .trace (.motorStopAll s.blk.arg1 s.blk.arg2 s.blk.arg3)⟩] } ∧
    ∀ t, exec .motSet s = .next t → ∃ u, exec .motGet t = .next u ∧ u.blk.result1 = 127

/-- COMP.INIT completes when the timer is disarmed or the policy is restart: the deadline is now + 1, the epoch is now
under arm_time only, results 0, no event, nothing else; else it is refused. After the handshake the state stays Initialized
and the next tick, at now + 1, sets result1 to 1 and pulses (R130). -/
def Obligations.CompInitArmsTheTimer : Prop :=
  decodeWord 0x00050000 = .compInit ∧ ∀ s : State,
    ((s.blk.deadline = none ∨ s.params.reinitPolicy = .restart) →
      exec .compInit s = .next { s with
        blk := { s.blk with
          result1 := 0
          result2 := 0
          deadline := some (s.now + 1)
          epoch := if s.params.initEpoch = .armTime then s.now else s.blk.epoch } }) ∧
    (s.blk.deadline ≠ none → s.params.reinitPolicy = .refuse → exec .compInit s = .refused .reinitWhileArmed) ∧
    (s.blk.sup = .initialized → ∀ t, exec .compInit s = .next t → ∀ fresh, ∃ u,
      timerStep fresh (t.setNow (s.now + 1)) = .next u ∧ u.blk.sup = .initialized ∧ u.blk.result1 = 1 ∧
      u.history = s.history ++ [⟨s.now + 1, .irq s.blk.bind.irqLine⟩])

/-- COMP.INIT while armed (R132): refused by the policy, or restarted: the pending deadline is gone, and no tick runs
before now + 1. -/
def Obligations.CompInitWhileArmedFollowsThePolicy : Prop :=
  ∀ (s : State) (d : Nat), s.blk.deadline = some d →
    (s.params.reinitPolicy = .refuse → exec .compInit s = .refused .reinitWhileArmed) ∧
    (s.params.reinitPolicy = .restart → ∃ t, exec .compInit s = .next t ∧ t.blk.deadline = some (s.now + 1) ∧
      ∀ n fresh, n ≤ s.now → timerStep fresh (t.setNow n) = .fault .tickNotDue)

/-- COMP.STANDALONE completes: one trace record, results 0, nothing else (R131). -/
def Obligations.CompStandaloneOnlyLogs : Prop :=
  decodeWord 0x00050001 = .compStandalone ∧ ∀ s : State, exec .compStandalone s = .next { s with
    blk := { s.blk with result1 := 0, result2 := 0 }
    history := s.history ++ [⟨s.now, .trace (.compStandalone s.blk.arg1 s.blk.arg2 s.blk.arg3)⟩] }

/-- COMP.SETNAME completes (R133). Admitted: the four guest bytes at arg1 go into name[0..3], name[4..7] stay, the read is
in the history, followed by the trace of the new name exactly while no sync has happened. Not admitted: the fault is
recorded, the name stays and nothing is emitted. Nothing else changes but the results, which are 0 (and the model's
counter of guest answers). -/
def Obligations.CompSetnameCopiesFourBytes : Prop :=
  decodeWord 0x00050002 = .compSetname ∧ ∀ s : State,
    (s.guestMemOk s.blk.arg1.toNat 4 = true → ∃ (bytes : List Byte) (t : State), exec .compSetname s = .next t ∧
      bytes = (List.range 4).map (fun i => s.guestByte (s.blk.arg1.toNat + i)) ∧
      t.blk.name.toList = bytes ++ s.blk.name.toList.drop 4 ∧
      t = { s with
        blk := { s.blk with result1 := 0, result2 := 0, name := t.blk.name }
        history := s.history ++ [⟨s.now, .guestRead s.blk.arg1.toNat bytes⟩] ++
          (if s.blk.firstSyncDone then [] else [⟨s.now, .trace (.setName t.blk.name)⟩])
        answers := s.answers + 1 }) ∧
    (s.guestMemOk s.blk.arg1.toNat 4 = false → exec .compSetname s = .next { s with
      blk := { s.blk with
        result1 := 0
        result2 := 0
        faults := if (⟨.read, s.blk.arg1.toNat, 4⟩ : GuestMemFault) ∈ s.blk.faults then s.blk.faults
          else s.blk.faults ++ [⟨.read, s.blk.arg1.toNat, 4⟩] } })

/-- COMP.GETSTATUS completes (R134). Admitted: the 31 status bytes stand at arg1 and after, every other guest byte is as it
was, the write is in the history and the first sync is done. Not admitted: the fault is recorded, no byte is written and
`firstSyncDone` stays. Nothing else changes but the results, which are 0. -/
def Obligations.CompGetstatusStoresTheSnapshot : Prop :=
  decodeWord 0x00050003 = .compGetstatus ∧ ∀ s : State,
    (s.guestMemOk s.blk.arg1.toNat 31 = true → ∃ t, exec .compGetstatus s = .next t ∧
      (∀ a, Memory.read t.mem a =
        if s.blk.arg1.toNat ≤ a ∧ a < s.blk.arg1.toNat + 31 then s.blk.status[a - s.blk.arg1.toNat]?
        else Memory.read s.mem a) ∧
      t = { s with
        blk := { s.blk with result1 := 0, result2 := 0, firstSyncDone := true }
        mem := t.mem
        history := s.history ++ [⟨s.now, .guestWrite s.blk.arg1.toNat s.blk.status.toList⟩] }) ∧
    (s.guestMemOk s.blk.arg1.toNat 31 = false → exec .compGetstatus s = .next { s with
      blk := { s.blk with
        result1 := 0
        result2 := 0
        faults := if (⟨.write, s.blk.arg1.toNat, 31⟩ : GuestMemFault) ∈ s.blk.faults then s.blk.faults
          else s.blk.faults ++ [⟨.write, s.blk.arg1.toNat, 31⟩] } })

/-- SYS.EXIT completes: the whole of arg1 goes into the Exit event and the halt, results 0, nothing else; the host's view
of it is EXIT_CODE_MAP's; after it no agent has a step (R140). -/
def Obligations.SysExitEndsTheRun : Prop :=
  decodeWord 0x00060000 = .sysExit ∧ ∀ s : State, ∃ t, exec .sysExit s = .next t ∧ step t = .fault .runOver ∧
    t.exitCode = some s.blk.arg1 ∧ t.hostExit = some (Config.exitCodeMap s.blk.arg1) ∧
    t = { s with
      blk := { s.blk with result1 := 0, result2 := 0, halted := some s.blk.arg1 }
      history := s.history ++ [⟨s.now, .exit s.blk.arg1⟩] }

/-- SYS.BREAK completes as a no-op: results 0, no event, nothing else (R141). -/
def Obligations.SysBreakOnlyClears : Prop :=
  decodeWord 0x00060001 = .sysBreak ∧ ∀ s : State, exec .sysBreak s = .next { s with blk := { s.blk with result1 := 0, result2 := 0 } }

/-- UNKNOWN completes: one diagnostic record with module and function, results 0, no interrupt, nothing else. It is what
every word but the 18 of R73 runs, with the word's own halves (R142). -/
def Obligations.UnknownOnlyLogsTheWord : Prop :=
  (∀ v : Word, (∀ row ∈ opcodeMap, row.1 ≠ v) → decodeWord v = .unknown (moduleOf v) (functionOf v)) ∧
  ∀ (m f : Half) (s : State), exec (.unknown m f) s = .next { s with
    blk := { s.blk with result1 := 0, result2 := 0 }
    history := s.history ++ [⟨s.now, .trace (.unknown m f s.blk.arg1 s.blk.arg2 s.blk.arg3)⟩] }

/-- No command faults, and only COMP.INIT while armed under `refuse` is refused (R221, R132). -/
def Obligations.EveryCommandCompletes : Prop :=
  ∀ (i : Instr) (s : State),
    (∃ t, exec i s = .next t) ∨
      (i = .compInit ∧ s.blk.deadline ≠ none ∧ s.params.reinitPolicy = .refuse ∧ exec i s = .refused .reinitWhileArmed)

/-- Every command leaves result2 at 0 and result1 at 0, but for MOT.GET's 127 (R72, R120, R311). -/
def Obligations.EveryCommandClearsTheResults : Prop :=
  ∀ (i : Instr) (s t : State), exec i s = .next t →
    t.blk.result2 = 0 ∧ t.blk.result1 = if i = .motGet then 127 else 0

/-- Who writes what (R34, R32): a command leaves every piece of state that R34 does not give it to write. -/
def Obligations.CommandsWriteOnlyTheirOwnState : Prop :=
  ∀ (i : Instr) (s t : State), exec i s = .next t →
    t.blk.control = s.blk.control ∧ t.blk.arg1 = s.blk.arg1 ∧ t.blk.arg2 = s.blk.arg2 ∧ t.blk.arg3 = s.blk.arg3 ∧
    t.blk.bind = s.blk.bind ∧ t.blk.sup = s.blk.sup ∧ t.blk.status = s.blk.status ∧
    (i ≠ .compInit → t.blk.deadline = s.blk.deadline ∧ t.blk.epoch = s.blk.epoch) ∧
    (i ≠ .compSetname → t.blk.name = s.blk.name ∧ t.answers = s.answers) ∧
    (i ≠ .compGetstatus → t.blk.firstSyncDone = s.blk.firstSyncDone ∧ t.mem = s.mem) ∧
    (i ≠ .sysExit → t.blk.halted = s.blk.halted) ∧
    (i ≠ .compSetname → i ≠ .compGetstatus → t.blk.faults = s.blk.faults) ∧
    t.peers = s.peers ∧ t.now = s.now ∧ t.params = s.params ∧ t.inputs = s.inputs ∧ t.readData = s.readData ∧
    t.resets = s.resets

/-- Only the bindings of the other instances matter to a command (R53), nothing of their state (R223). -/
def Obligations.CommandsReadNoOtherInstance : Prop :=
  ∀ (i : Instr) (s : State) (others : List Block),
    others.map (fun b => b.bind) = s.peers.map (fun b => b.bind) →
    exec i { s with peers := others } = mapNext (fun t => { t with peers := others }) (exec i s)

/-! ### Guest memory -/

/-- R53: whatever the platform grants, no transfer past 2^32 and none over an instance's register window is admitted; and
what is admitted is granted. -/
def Obligations.TransfersStayInGuestMemory : Prop :=
  ∀ (s : State) (addr n : Nat),
    (2 ^ 32 < addr + n → s.guestMemOk addr n = false) ∧
    (∀ b ∈ s.blocks, addr < b.bind.base + 0xC00 → b.bind.base < addr + n → s.guestMemOk addr n = false) ∧
    (addr + n ≤ 2 ^ 32 → (∀ b ∈ s.blocks, addr + n ≤ b.bind.base ∨ b.bind.base + 0xC00 ≤ addr) →
      (s.guestMemOk addr n = true ↔ ∃ g ∈ s.params.grants, grantCovers addr n g = true))

/-- R47: a 32-bit value the block stores into guest memory lies little-endian, and no other byte changes. -/
def Obligations.GuestWordsAreStoredLittleEndian : Prop :=
  ∀ (s : State) (addr : Nat) (v : Word), s.guestMemOk addr 4 = true →
    ∀ a, ((Memory.read (s.memWriteWord addr v id).mem a).map BitVec.toNat) =
      if addr ≤ a ∧ a < addr + 4 then some (v.toNat / 2 ^ (8 * (a - addr)) % 256)
      else (Memory.read s.mem a).map BitVec.toNat

/-- R61: a CPU store before the control write is what set name reads. -/
def Obligations.SetnameSeesEarlierCpuStores : Prop :=
  ∀ (s t : State) (bytes : List Byte), bytes.length = 4 → s.guestMemOk s.blk.arg1.toNat 4 = true →
    guestStoreStep s.blk.arg1.toNat bytes s = .next t →
    ∃ u, exec .compSetname t = .next u ∧ u.blk.name.toList.take 4 = bytes

/-- The model's choice, log 3: what get status stored is what a set name at the same address reads, as far as it reads. The
spec assumes nothing of the bytes the platform answers with (R51); log 3 takes guest memory to be plain memory, in which a
byte the block stored reads back to the block, and it is unsafe for a granted range that is not. That the second command
leaves no trace is R133's, and that the first stores the status is R134's. -/
def Obligations.SetnameReadsWhatGetstatusStored : Prop :=
  ∀ (s : State), s.guestMemOk s.blk.arg1.toNat 31 = true → s.guestMemOk s.blk.arg1.toNat 4 = true →
    ∃ t u, exec .compGetstatus s = .next t ∧ exec .compSetname t = .next u ∧
      u.blk.name.toList.take 4 = s.blk.status.toList.take 4 ∧ u.history.length = s.history.length + 2

/-- R135: Serialize and Deserialize are inverse, and the fields lie at R27's offsets. -/
def Obligations.MarshallerRoundTrips : Prop :=
  (∀ st : StatusBlock, deserialize (serialize st) = st) ∧
  (∀ b : StatusBytes, serialize (deserialize b) = b) ∧
  ∀ st : StatusBlock, (serialize st).toList =
    [st.gameStatus, st.mainBattery, st.backupBattery] ++
      (st.joy0.axis.toList ++ st.joy0.buttons.toList ++ st.joy0.reserved.toList) ++
      (st.joy1.axis.toList ++ st.joy1.buttons.toList ++ st.joy1.reserved.toList)

/-! ### Time, ticks and interrupts -/

/-- A step whose next event is a tick at instance `k` runs that instance's tick (R60, R202, R223). -/
def Obligations.StepRunsTheTick : Prop :=
  ∀ (s : State) (k : Nat) (fresh : StatusBytes) (rest : List Event), s.over = false → k ≤ s.peers.length →
    s.inputs = .tick k fresh :: rest →
    step s = mapNext (fun t => t.focus k) (timerStep fresh (({ s with inputs := rest } : State).focus k))

/-- R202: the Timer agent has a step exactly when the run is not over and the instance's timer is armed and due. -/
def Obligations.TickNeedsADueDeadline : Prop :=
  ∀ (s : State) (k : Nat) (b : Block) (fresh : StatusBytes) (rest : List Event), s.inst? k = some b →
    s.inputs = .tick k fresh :: rest →
    ((∃ t, step s = .next t) ↔ s.over = false ∧ ∃ d, b.deadline = some d ∧ d ≤ s.now) ∧
    (s.over = false → b.deadline = none → step s = .fault .tickNotDue)

/-- R203, R204, R205, R206: a due tick before the threshold only re-arms; at or after it, the handshake takes the fresh
status, clears the results, becomes Initialized and pulses once; later ones take the fresh status, set results 1 and 0 and
pulse once. All re-arm 10 ms from now. -/
def Obligations.TickFollowsTheHandshake : Prop :=
  ∀ (s : State) (fresh : StatusBytes) (d : Nat), s.blk.deadline = some d → d ≤ s.now →
    (s.blk.sup = .uninitialized → s.now - s.blk.epoch < 1000 →
      timerStep fresh s = .next { s with blk := { s.blk with deadline := some (s.now + 10) } }) ∧
    (s.blk.sup = .uninitialized → 1000 ≤ s.now - s.blk.epoch →
      timerStep fresh s = .next { s with
        blk := { s.blk with
          deadline := some (s.now + 10), status := fresh, result1 := 0, result2 := 0, sup := .initialized }
        history := s.history ++ [⟨s.now, .irq s.blk.bind.irqLine⟩] }) ∧
    (s.blk.sup = .initialized →
      timerStep fresh s = .next { s with
        blk := { s.blk with deadline := some (s.now + 10), status := fresh, result1 := 1, result2 := 0 }
        history := s.history ++ [⟨s.now, .irq s.blk.bind.irqLine⟩] })

/-- R201: time advances by at least 1 ms, and under TIMER_EXACT past no instance's deadline; nothing else changes. -/
def Obligations.ClockStopsAtDeadlines : Prop :=
  ∀ (s : State) (ms : Nat) (rest : List Event), s.over = false → s.inputs = .advance ms :: rest →
    ((1 ≤ ms ∧ (s.params.timerExact = true → ∀ b ∈ s.blocks, ∀ d, b.deadline = some d → s.now + ms ≤ d)) →
      step s = .next { s with inputs := rest, now := s.now + ms }) ∧
    (¬ (1 ≤ ms ∧ (s.params.timerExact = true → ∀ b ∈ s.blocks, ∀ d, b.deadline = some d → s.now + ms ≤ d)) →
      step s = .fault .clockBlocked)

/-- Under TIMER_EXACT, in a state of a run, an enabled tick runs with `now` equal to its deadline (R201). -/
def Obligations.ExactTicksRunAtTheirDeadline : Prop :=
  ∀ (s t : State) (k : Nat) (b : Block) (fresh : StatusBytes) (rest : List Event), s.Inv → s.params.timerExact = true →
    s.inst? k = some b → s.inputs = .tick k fresh :: rest → step s = .next t →
    b.deadline = some s.now ∧ ∃ b', t.inst? k = some b' ∧ b'.deadline = some (s.now + 10)

/-- R9: a step's outputs are appended to the history, each tagged with the step's `now`; time does not go back (R200); no
step changes a parameter or the number of instances. -/
def Obligations.OutputsAreAppendedInTimeOrder : Prop :=
  ∀ s t : State, step s = .next t →
    s.now ≤ t.now ∧ t.params = s.params ∧ t.peers.length = s.peers.length ∧
    ∃ new, t.history = s.history ++ new ∧ ∀ r ∈ new, r.time = s.now

/-- R207: a step pulses an interrupt line exactly when it is a tick of an instance that is Initialized or whose threshold
has come; then it pulses that instance's line, once, and puts out nothing else. No command, no bus access and no reset
pulses. -/
def Obligations.OnlyQualifyingTicksInterrupt : Prop :=
  ∀ s t : State, step s = .next t →
    (∀ k b fresh rest, s.inputs = .tick k fresh :: rest → s.inst? k = some b →
      (b.sup = .initialized ∨ 1000 ≤ s.now - b.epoch) → t.history = s.history ++ [⟨s.now, .irq b.bind.irqLine⟩]) ∧
    (∀ line, (∀ k b fresh rest, s.inputs = .tick k fresh :: rest → s.inst? k = some b →
      b.sup = .uninitialized ∧ s.now - b.epoch < 1000) → irqTimes line t.history = irqTimes line s.history)

/-- What R310 infers from R120 and R206: a tick after the handshake replaces a command's result: MOT.GET's 127 becomes 1. -/
def Obligations.TickOverwritesACommandResult : Prop :=
  ∀ (s t : State) (fresh : StatusBytes) (d : Nat), s.blk.sup = .initialized → s.blk.deadline = some d → d ≤ s.now →
    exec .motGet s = .next t → t.blk.result1 = 127 ∧ ∃ u, timerStep fresh t = .next u ∧ u.blk.result1 = 1 ∧ u.blk.result2 = 0

/-- The schedule that R211 infers from R201 to R206 and R130: from the state a COMP.INIT at `t0` leaves (armed for t0 + 1),
with the supervisor Uninitialized, the threshold counted from 0 and each tick at its deadline, ticks run at t0 + 1 + 10 k; the first at 1000 or later completes the handshake; the pulses are exactly those of
the ticks from then on; a later tick leaves result1 at 1, and the status is the last qualifying tick's draw. -/
def Obligations.TicksFollowTheSchedule : Prop :=
  ∀ (s : State) (t0 : Nat) (f : StatusBytes) (fs : List StatusBytes),
    s.over = false → s.peers = [] → s.now = t0 → s.blk.sup = .uninitialized → s.blk.epoch = 0 →
    s.blk.deadline = some (t0 + 1) → s.inputs = .advance 1 :: .tick 0 f :: tickTrain fs →
    ∃ t, core.run (2 + 2 * fs.length) s = .next t ∧ t.now = t0 + 1 + 10 * fs.length ∧
      t.blk.deadline = some (t.now + 10) ∧ (t.blk.sup = .initialized ↔ 1000 ≤ t.now) ∧
      (irqTimes s.blk.bind.irqLine t.history = irqTimes s.blk.bind.irqLine s.history ++
        (tickTimes (t0 + 1) (fs.length + 1)).filter (fun x => 1000 ≤ x)) ∧
      (t.blk.result1 = if t.now < 1000 then s.blk.result1 else if fs.length = 0 ∨ t.now < 1010 then 0 else 1) ∧
      (t.blk.status = if t.now < 1000 then s.blk.status else (fs.getLast?).getD f)

/-- Weak fairness, as R226 assumes it of the Timer agent: in a weakly fair run a due tick is taken, unless a reset disarms it
or a COMP.INIT at that instance re-arms it first. Under TIMER_EXACT time does not move while a tick is due (R201), so this
is what lets time move on past a deadline. -/
def Obligations.FairRunsTakeDueTicks : Prop :=
  ∀ (agent : Nat → Option Event) (run : Nat → State) (k i : Nat), IsRun agent run → WeaklyFair agent run →
    (run i).mayTick k = true →
    (∃ j, i ≤ j ∧ ((∃ fresh, agent j = some (.tick k fresh)) ∨ agent j = some .reset ∨
      ∃ bytes, agent j = some (.access k (.write 0x00 bytes)) ∧ decode bytes = .ok .compInit)) ∧
    ((run i).params.timerExact = true → ∀ ms, agent i ≠ some (.advance ms))

/-- The rest of R226. No fairness of the Clock agent: a run that stops where no tick is due is a weakly fair run, and a run in
which time stops has at most the ticks already due, one at each instance. No run must end but by SYS.EXIT: the Clock or the
Timer agent always has a step, and a timer once armed is armed in every later state, until a reset. -/
def Obligations.TimeMayStopButTheTimerStaysArmed : Prop :=
  (∀ s : State, s.over = false → s.inputs = [] → (∀ k, s.mayTick k = false) →
    IsRun (fun _ => none) (fun _ => s) ∧ WeaklyFair (fun _ => none) (fun _ => s)) ∧
  (∀ (agent : Nat → Option Event) (run : Nat → State) (i j l k : Nat) (f g : StatusBytes), IsRun agent run →
    (∀ n, i ≤ n → ∀ ms, agent n ≠ some (.advance ms)) → i ≤ j → j < l →
    agent j = some (.tick k f) → agent l ≠ some (.tick k g)) ∧
  (∀ s : State, s.over = false → s.mayAdvance 1 = true ∨ ∃ k, s.mayTick k = true) ∧
  ∀ (agent : Nat → Option Event) (run : Nat → State) (i j k : Nat) (b : Block), IsRun agent run →
    (∀ n, i ≤ n → agent n ≠ some .reset) → (run i).inst? k = some b → b.deadline ≠ none → i ≤ j →
    ∃ b', (run j).inst? k = some b' ∧ b'.deadline ≠ none

/-! ### Reset, the end of a run, and the whole machine -/

/-- R300: what the power-on reset leaves; the name and the status are the draws, whatever they are (log 4). -/
def Obligations.ResetLeavesTheTable : Prop :=
  State.reset.blk = {
    bind := Config.binding, control := 0, arg1 := 0, arg2 := 0, arg3 := 0, result1 := 0, result2 := 0
    sup := .uninitialized, firstSyncDone := false, name := Config.nameReset 0 0, status := Config.statusReset 0 0
    deadline := none, epoch := 0, halted := none, faults := [] } ∧
  State.reset.now = 0 ∧ State.reset.history = [] ∧ State.reset.over = false ∧
  State.reset.params.timerExact = true ∧ State.reset.params.reinitPolicy = .restart ∧
  State.reset.params.initEpoch = .clockZero

/-- R300, R301: a later reset resets every instance and disarms its timer, emits no event, and leaves guest memory, `now`
and the bindings alone. -/
def Obligations.ResetStepResetsEveryInstance : Prop :=
  ∀ (s : State) (rest : List Event), s.over = false → s.inputs = .reset :: rest →
    ∃ t, step s = .next t ∧ t.mem = s.mem ∧ t.now = s.now ∧ t.history = s.history ∧ t.params = s.params ∧
      t.inputs = rest ∧ t.peers.length = s.peers.length ∧
      ∀ k b, s.inst? k = some b → ∃ b', t.inst? k = some b' ∧ b'.bind = b.bind ∧
        b'.control = 0 ∧ b'.arg1 = 0 ∧ b'.arg2 = 0 ∧ b'.arg3 = 0 ∧ b'.result1 = 0 ∧ b'.result2 = 0 ∧
        b'.sup = .uninitialized ∧ b'.firstSyncDone = false ∧ b'.deadline = none ∧ b'.epoch = 0 ∧
        b'.halted = none ∧ b'.faults = []

/-- What R302 infers from R300 and R202: after reset the block waits: with no agent scheduled nothing changes, and no tick has a step. -/
def Obligations.BlockWaitsAfterReset : Prop :=
  step State.reset = .next State.reset ∧
  ∀ (fresh : StatusBytes) (rest : List Event),
    step { State.reset with inputs := .tick 0 fresh :: rest } = .fault .tickNotDue

/-- Once an instance has exited, no agent of any instance has a step (10_state.md R30, R223, R305). -/
def Obligations.HaltedRunHasNoStep : Prop :=
  ∀ s : State, step s = .fault .runOver ↔ ∃ b ∈ s.blocks, b.halted ≠ none

/-- In a state of a run, a final state is fault-free and its history ends with the Exit of its code (R305, R220). -/
def Obligations.FinalHistoryEndsWithExit : Prop :=
  ∀ s : State, s.Inv → s.final = true → ∃ c, s.exitCode = some c ∧
    s.history.getLast? = some ⟨s.now, .exit c⟩ ∧ (∀ b ∈ s.blocks, b.faults = []) ∧ step s = .fault .runOver

/-- R223: an access or a tick at one instance leaves every other instance as it was. -/
def Obligations.InstancesDoNotInterfere : Prop :=
  ∀ (s t : State) (e : Event) (rest : List Event) (j k : Nat), step s = .next t → s.inputs = e :: rest →
    ((∃ a, e = .access k a) ∨ ∃ fresh, e = .tick k fresh) → j ≠ k → t.inst? j = s.inst? j

/-- What only a reset undoes (R24, R25, R26, R28, R29, R35): Initialized stays, the first sync stays, an armed timer stays
armed, a recorded fault stays, name[4..7] stay, and under clock_zero the epoch stays. -/
def Obligations.LatchesHoldUntilReset : Prop :=
  ∀ s t : State, step s = .next t → (∀ rest, s.inputs ≠ .reset :: rest) →
    ∀ k b, s.inst? k = some b → ∃ b', t.inst? k = some b' ∧ b'.bind = b.bind ∧
      (b.sup = .initialized → b'.sup = .initialized) ∧ (b.firstSyncDone = true → b'.firstSyncDone = true) ∧
      (b.deadline ≠ none → b'.deadline ≠ none) ∧ (∀ f ∈ b.faults, f ∈ b'.faults) ∧
      b'.name.toList.drop 4 = b.name.toList.drop 4 ∧ (s.params.initEpoch = .clockZero → b'.epoch = b.epoch)

/-- The invariant of every run is kept by every step, from any state that meets it (R9, R29, R35, R201, R203, R204, R305,
and the canonical form of guest memory, log 3). -/
def Obligations.EveryStepKeepsTheInvariant : Prop :=
  ∀ s t : State, s.Inv → step s = .next t → t.Inv

/-- The machine after reset meets the invariant. -/
def Obligations.ResetMeetsTheInvariant : Prop := State.reset.Inv
end

