-- ==== Sys2Proof/Laws/Memory.lean ====
section
/-! SUPPORT. Guest memory: read after write, and that every memory operation keeps the canonical form. -/

namespace Sys2Proof.Machine

/-- A read after a one-byte store: the byte stored at its address, the old byte elsewhere. -/
theorem Memory.read_write (m : Memory) (x y : Nat) (v : Byte) :
    Memory.read (Memory.write m x v) y = if y = x then some v else Memory.read m y := by
  induction m with
  | nil => simp [Memory.write, Memory.read]
  | cons c rest ih =>
    obtain ⟨a, b⟩ := c
    simp only [Memory.write]
    split
    · simp [Memory.read]
    · split
      · rename_i h; subst h
        simp only [Memory.read]
        split <;> rfl
      · simp only [Memory.read, ih]
        split
        · rename_i h1 h2 h3; subst h3; rw [if_neg]; omega
        · rfl

/-- Every address listed after a one-byte store is the stored one or was listed before. -/
theorem Memory.mem_write (m : Memory) (x : Nat) (v : Byte) (c : Host.Cell) (h : c ∈ Memory.write m x v) :
    c.1 = x ∨ c ∈ m := by
  induction m with
  | nil => simp only [Memory.write, List.mem_singleton] at h; subst h; exact .inl rfl
  | cons d rest ih =>
    obtain ⟨a, b⟩ := d
    simp only [Memory.write] at h
    split at h
    · simp only [List.mem_cons] at h ⊢
      rcases h with rfl | h
      · exact .inl rfl
      · exact .inr h
    · split at h
      · simp only [List.mem_cons] at h ⊢
        rcases h with rfl | h
        · exact .inl rfl
        · exact .inr (.inr h)
      · simp only [List.mem_cons] at h ⊢
        rcases h with rfl | h
        · exact .inr (.inl rfl)
        · rcases ih h with h | h
          · exact .inl h
          · exact .inr (.inr h)

/-- A one-byte store inside the 32-bit space keeps the canonical form. -/
theorem Memory.write_wf (m : Memory) (x : Nat) (v : Byte) (hm : Memory.wf m) (hx : x < 2 ^ 32) :
    Memory.wf (Memory.write m x v) := by
  refine ⟨?_, fun c hc => ?_⟩
  · have hp := hm.1
    clear hm
    induction m with
    | nil => simp [Memory.write]
    | cons d rest ih =>
      obtain ⟨a, b⟩ := d
      rw [List.pairwise_cons] at hp
      simp only [Memory.write]
      split
      · rename_i hlt
        refine List.pairwise_cons.2 ⟨fun c hc => ?_, List.pairwise_cons.2 hp⟩
        rcases List.mem_cons.1 hc with rfl | hc
        · exact hlt
        · exact Nat.lt_trans hlt (hp.1 c hc)
      · split
        · rename_i heq; subst heq
          exact List.pairwise_cons.2 hp
        · refine List.pairwise_cons.2 ⟨fun c hc => ?_, ih hp.2⟩
          rcases Memory.mem_write rest x v c hc with h | h
          · simp only; omega
          · exact hp.1 c h
  · rcases Memory.mem_write m x v c hc with h | h
    · omega
    · exact hm.2 c h

/-- A run of stores inside the 32-bit space keeps the canonical form. -/
theorem Memory.writeBytes_wf (vs : List Byte) (m : Memory) (addr : Nat) (hm : Memory.wf m)
    (h : addr + vs.length ≤ 2 ^ 32) : Memory.wf (Memory.writeBytes m addr vs) := by
  induction vs generalizing m addr with
  | nil => exact hm
  | cons v vs ih =>
    simp only [List.length_cons] at h
    exact ih (Memory.write m addr v) (addr + 1) (Memory.write_wf m addr v hm (by omega)) (by omega)

/-- A read after a run of stores: the i-th byte at `addr + i`, the old byte outside the range. -/
theorem Memory.read_writeBytes (vs : List Byte) (m : Memory) (addr x : Nat) :
    Memory.read (Memory.writeBytes m addr vs) x =
      if addr ≤ x ∧ x < addr + vs.length then vs[x - addr]? else Memory.read m x := by
  induction vs generalizing m addr with
  | nil =>
    have : ¬ (addr ≤ x ∧ x < addr + ([] : List Byte).length) := by simp
    rw [if_neg this]; rfl
  | cons v vs ih =>
    simp only [Memory.writeBytes, ih, Memory.read_write, List.length_cons]
    by_cases hx : x = addr
    · subst hx
      rw [if_neg (by omega), if_pos rfl, if_pos (by omega)]
      simp
    · by_cases hin : addr + 1 ≤ x ∧ x < addr + 1 + vs.length
      · rw [if_pos hin, if_pos (by omega)]
        obtain ⟨k, hk⟩ : ∃ k, x - addr = k + 1 := ⟨x - addr - 1, by omega⟩
        rw [hk, List.getElem?_cons_succ]
        congr 1; omega
      · rw [if_neg hin, if_neg hx, if_neg (by omega)]

/-- Two canonical memories that read alike are the same list. -/
theorem Memory.ext_of_read (m n : Memory) (hm : Memory.wf m) (hn : Memory.wf n)
    (h : ∀ x, Memory.read m x = Memory.read n x) : m = n := by
  have below : ∀ (l : Memory) (a : Nat), (∀ c ∈ l, a < c.1) → Memory.read l a = none := by
    intro l a hl
    induction l with
    | nil => rfl
    | cons c rest ih =>
      have hc := hl c (List.mem_cons_self)
      simp only [Memory.read]
      rw [if_neg (by omega)]
      exact ih (fun d hd => hl d (List.mem_cons_of_mem _ hd))
  have hm1 := hm.1
  have hn1 := hn.1
  clear hm hn
  induction m generalizing n with
  | nil =>
    cases n with
    | nil => rfl
    | cons d rest => have := h d.1; simp [Memory.read] at this
  | cons c rest ih =>
    cases n with
    | nil => have := h c.1; simp [Memory.read] at this
    | cons d rest' =>
      rw [List.pairwise_cons] at hm1 hn1
      obtain ⟨a, b⟩ := c
      obtain ⟨a', b'⟩ := d
      have haa : a = a' := by
        rcases Nat.lt_trichotomy a a' with hlt | heq | hgt
        · have h1 := h a
          rw [below ((a', b') :: rest') a (fun c hc => by
            rcases List.mem_cons.1 hc with rfl | hc
            · exact hlt
            · exact Nat.lt_trans hlt (hn1.1 c hc))] at h1
          simp [Memory.read] at h1
        · exact heq
        · have h1 := h a'
          rw [below ((a, b) :: rest) a' (fun c hc => by
            rcases List.mem_cons.1 hc with rfl | hc
            · exact hgt
            · exact Nat.lt_trans hgt (hm1.1 c hc))] at h1
          simp [Memory.read] at h1
      subst haa
      have hb : b = b' := by have := h a; simpa [Memory.read] using this
      subst hb
      rw [ih rest' (fun x => ?_) hm1.2 hn1.2]
      by_cases hx : x = a
      · subst hx
        rw [below rest x hm1.1, below rest' x hn1.1]
      · have := h x
        simpa [Memory.read, hx] using this

end Sys2Proof.Machine
end

