-- ==== Sys2Proof/Laws/State.lean ====
section
/-! SUPPORT. One lemma per field per update of the state: what each update writes and what it leaves. -/

namespace Sys2Proof.Machine

/-! ### Updates of one instance -/

@[simp] theorem Block.set_bind (b : Block) (r : Reg) (v : Word) : (b.set r v).bind = b.bind := by cases r <;> rfl
@[simp] theorem Block.set_control (b : Block) (r : Reg) (v : Word) : (b.set r v).control = if r = .control then v else b.control := by cases r <;> rfl
@[simp] theorem Block.set_arg1 (b : Block) (r : Reg) (v : Word) : (b.set r v).arg1 = if r = .arg1 then v else b.arg1 := by cases r <;> rfl
@[simp] theorem Block.set_arg2 (b : Block) (r : Reg) (v : Word) : (b.set r v).arg2 = if r = .arg2 then v else b.arg2 := by cases r <;> rfl
@[simp] theorem Block.set_arg3 (b : Block) (r : Reg) (v : Word) : (b.set r v).arg3 = if r = .arg3 then v else b.arg3 := by cases r <;> rfl
@[simp] theorem Block.set_result1 (b : Block) (r : Reg) (v : Word) : (b.set r v).result1 = if r = .result1 then v else b.result1 := by cases r <;> rfl
@[simp] theorem Block.set_result2 (b : Block) (r : Reg) (v : Word) : (b.set r v).result2 = if r = .result2 then v else b.result2 := by cases r <;> rfl
@[simp] theorem Block.set_sup (b : Block) (r : Reg) (v : Word) : (b.set r v).sup = b.sup := by cases r <;> rfl
@[simp] theorem Block.set_firstSyncDone (b : Block) (r : Reg) (v : Word) : (b.set r v).firstSyncDone = b.firstSyncDone := by cases r <;> rfl
@[simp] theorem Block.set_name (b : Block) (r : Reg) (v : Word) : (b.set r v).name = b.name := by cases r <;> rfl
@[simp] theorem Block.set_status (b : Block) (r : Reg) (v : Word) : (b.set r v).status = b.status := by cases r <;> rfl
@[simp] theorem Block.set_deadline (b : Block) (r : Reg) (v : Word) : (b.set r v).deadline = b.deadline := by cases r <;> rfl
@[simp] theorem Block.set_epoch (b : Block) (r : Reg) (v : Word) : (b.set r v).epoch = b.epoch := by cases r <;> rfl
@[simp] theorem Block.set_halted (b : Block) (r : Reg) (v : Word) : (b.set r v).halted = b.halted := by cases r <;> rfl
@[simp] theorem Block.set_faults (b : Block) (r : Reg) (v : Word) : (b.set r v).faults = b.faults := by cases r <;> rfl
@[simp] theorem Block.get_set (b : Block) (r q : Reg) (v : Word) : (b.set r v).get q = if r = q then v else b.get q := by cases r <;> cases q <;> rfl

@[simp] theorem Block.setSup_bind (b : Block) (v : Supervisor) : (b.setSup v).bind = b.bind := rfl
@[simp] theorem Block.setSup_control (b : Block) (v : Supervisor) : (b.setSup v).control = b.control := rfl
@[simp] theorem Block.setSup_arg1 (b : Block) (v : Supervisor) : (b.setSup v).arg1 = b.arg1 := rfl
@[simp] theorem Block.setSup_arg2 (b : Block) (v : Supervisor) : (b.setSup v).arg2 = b.arg2 := rfl
@[simp] theorem Block.setSup_arg3 (b : Block) (v : Supervisor) : (b.setSup v).arg3 = b.arg3 := rfl
@[simp] theorem Block.setSup_result1 (b : Block) (v : Supervisor) : (b.setSup v).result1 = b.result1 := rfl
@[simp] theorem Block.setSup_result2 (b : Block) (v : Supervisor) : (b.setSup v).result2 = b.result2 := rfl
@[simp] theorem Block.setSup_sup (b : Block) (v : Supervisor) : (b.setSup v).sup = v := rfl
@[simp] theorem Block.setSup_firstSyncDone (b : Block) (v : Supervisor) : (b.setSup v).firstSyncDone = b.firstSyncDone := rfl
@[simp] theorem Block.setSup_name (b : Block) (v : Supervisor) : (b.setSup v).name = b.name := rfl
@[simp] theorem Block.setSup_status (b : Block) (v : Supervisor) : (b.setSup v).status = b.status := rfl
@[simp] theorem Block.setSup_deadline (b : Block) (v : Supervisor) : (b.setSup v).deadline = b.deadline := rfl
@[simp] theorem Block.setSup_epoch (b : Block) (v : Supervisor) : (b.setSup v).epoch = b.epoch := rfl
@[simp] theorem Block.setSup_halted (b : Block) (v : Supervisor) : (b.setSup v).halted = b.halted := rfl
@[simp] theorem Block.setSup_faults (b : Block) (v : Supervisor) : (b.setSup v).faults = b.faults := rfl

@[simp] theorem Block.setFirstSync_bind (b : Block) (v : Bool) : (b.setFirstSync v).bind = b.bind := rfl
@[simp] theorem Block.setFirstSync_control (b : Block) (v : Bool) : (b.setFirstSync v).control = b.control := rfl
@[simp] theorem Block.setFirstSync_arg1 (b : Block) (v : Bool) : (b.setFirstSync v).arg1 = b.arg1 := rfl
@[simp] theorem Block.setFirstSync_arg2 (b : Block) (v : Bool) : (b.setFirstSync v).arg2 = b.arg2 := rfl
@[simp] theorem Block.setFirstSync_arg3 (b : Block) (v : Bool) : (b.setFirstSync v).arg3 = b.arg3 := rfl
@[simp] theorem Block.setFirstSync_result1 (b : Block) (v : Bool) : (b.setFirstSync v).result1 = b.result1 := rfl
@[simp] theorem Block.setFirstSync_result2 (b : Block) (v : Bool) : (b.setFirstSync v).result2 = b.result2 := rfl
@[simp] theorem Block.setFirstSync_sup (b : Block) (v : Bool) : (b.setFirstSync v).sup = b.sup := rfl
@[simp] theorem Block.setFirstSync_firstSyncDone (b : Block) (v : Bool) : (b.setFirstSync v).firstSyncDone = v := rfl
@[simp] theorem Block.setFirstSync_name (b : Block) (v : Bool) : (b.setFirstSync v).name = b.name := rfl
@[simp] theorem Block.setFirstSync_status (b : Block) (v : Bool) : (b.setFirstSync v).status = b.status := rfl
@[simp] theorem Block.setFirstSync_deadline (b : Block) (v : Bool) : (b.setFirstSync v).deadline = b.deadline := rfl
@[simp] theorem Block.setFirstSync_epoch (b : Block) (v : Bool) : (b.setFirstSync v).epoch = b.epoch := rfl
@[simp] theorem Block.setFirstSync_halted (b : Block) (v : Bool) : (b.setFirstSync v).halted = b.halted := rfl
@[simp] theorem Block.setFirstSync_faults (b : Block) (v : Bool) : (b.setFirstSync v).faults = b.faults := rfl

@[simp] theorem Block.setName_bind (b : Block) (v : NameBytes) : (b.setName v).bind = b.bind := rfl
@[simp] theorem Block.setName_control (b : Block) (v : NameBytes) : (b.setName v).control = b.control := rfl
@[simp] theorem Block.setName_arg1 (b : Block) (v : NameBytes) : (b.setName v).arg1 = b.arg1 := rfl
@[simp] theorem Block.setName_arg2 (b : Block) (v : NameBytes) : (b.setName v).arg2 = b.arg2 := rfl
@[simp] theorem Block.setName_arg3 (b : Block) (v : NameBytes) : (b.setName v).arg3 = b.arg3 := rfl
@[simp] theorem Block.setName_result1 (b : Block) (v : NameBytes) : (b.setName v).result1 = b.result1 := rfl
@[simp] theorem Block.setName_result2 (b : Block) (v : NameBytes) : (b.setName v).result2 = b.result2 := rfl
@[simp] theorem Block.setName_sup (b : Block) (v : NameBytes) : (b.setName v).sup = b.sup := rfl
@[simp] theorem Block.setName_firstSyncDone (b : Block) (v : NameBytes) : (b.setName v).firstSyncDone = b.firstSyncDone := rfl
@[simp] theorem Block.setName_name (b : Block) (v : NameBytes) : (b.setName v).name = v := rfl
@[simp] theorem Block.setName_status (b : Block) (v : NameBytes) : (b.setName v).status = b.status := rfl
@[simp] theorem Block.setName_deadline (b : Block) (v : NameBytes) : (b.setName v).deadline = b.deadline := rfl
@[simp] theorem Block.setName_epoch (b : Block) (v : NameBytes) : (b.setName v).epoch = b.epoch := rfl
@[simp] theorem Block.setName_halted (b : Block) (v : NameBytes) : (b.setName v).halted = b.halted := rfl
@[simp] theorem Block.setName_faults (b : Block) (v : NameBytes) : (b.setName v).faults = b.faults := rfl

@[simp] theorem Block.setStatus_bind (b : Block) (v : StatusBytes) : (b.setStatus v).bind = b.bind := rfl
@[simp] theorem Block.setStatus_control (b : Block) (v : StatusBytes) : (b.setStatus v).control = b.control := rfl
@[simp] theorem Block.setStatus_arg1 (b : Block) (v : StatusBytes) : (b.setStatus v).arg1 = b.arg1 := rfl
@[simp] theorem Block.setStatus_arg2 (b : Block) (v : StatusBytes) : (b.setStatus v).arg2 = b.arg2 := rfl
@[simp] theorem Block.setStatus_arg3 (b : Block) (v : StatusBytes) : (b.setStatus v).arg3 = b.arg3 := rfl
@[simp] theorem Block.setStatus_result1 (b : Block) (v : StatusBytes) : (b.setStatus v).result1 = b.result1 := rfl
@[simp] theorem Block.setStatus_result2 (b : Block) (v : StatusBytes) : (b.setStatus v).result2 = b.result2 := rfl
@[simp] theorem Block.setStatus_sup (b : Block) (v : StatusBytes) : (b.setStatus v).sup = b.sup := rfl
@[simp] theorem Block.setStatus_firstSyncDone (b : Block) (v : StatusBytes) : (b.setStatus v).firstSyncDone = b.firstSyncDone := rfl
@[simp] theorem Block.setStatus_name (b : Block) (v : StatusBytes) : (b.setStatus v).name = b.name := rfl
@[simp] theorem Block.setStatus_status (b : Block) (v : StatusBytes) : (b.setStatus v).status = v := rfl
@[simp] theorem Block.setStatus_deadline (b : Block) (v : StatusBytes) : (b.setStatus v).deadline = b.deadline := rfl
@[simp] theorem Block.setStatus_epoch (b : Block) (v : StatusBytes) : (b.setStatus v).epoch = b.epoch := rfl
@[simp] theorem Block.setStatus_halted (b : Block) (v : StatusBytes) : (b.setStatus v).halted = b.halted := rfl
@[simp] theorem Block.setStatus_faults (b : Block) (v : StatusBytes) : (b.setStatus v).faults = b.faults := rfl

@[simp] theorem Block.setDeadline_bind (b : Block) (t : Nat) : (b.setDeadline t).bind = b.bind := rfl
@[simp] theorem Block.setDeadline_control (b : Block) (t : Nat) : (b.setDeadline t).control = b.control := rfl
@[simp] theorem Block.setDeadline_arg1 (b : Block) (t : Nat) : (b.setDeadline t).arg1 = b.arg1 := rfl
@[simp] theorem Block.setDeadline_arg2 (b : Block) (t : Nat) : (b.setDeadline t).arg2 = b.arg2 := rfl
@[simp] theorem Block.setDeadline_arg3 (b : Block) (t : Nat) : (b.setDeadline t).arg3 = b.arg3 := rfl
@[simp] theorem Block.setDeadline_result1 (b : Block) (t : Nat) : (b.setDeadline t).result1 = b.result1 := rfl
@[simp] theorem Block.setDeadline_result2 (b : Block) (t : Nat) : (b.setDeadline t).result2 = b.result2 := rfl
@[simp] theorem Block.setDeadline_sup (b : Block) (t : Nat) : (b.setDeadline t).sup = b.sup := rfl
@[simp] theorem Block.setDeadline_firstSyncDone (b : Block) (t : Nat) : (b.setDeadline t).firstSyncDone = b.firstSyncDone := rfl
@[simp] theorem Block.setDeadline_name (b : Block) (t : Nat) : (b.setDeadline t).name = b.name := rfl
@[simp] theorem Block.setDeadline_status (b : Block) (t : Nat) : (b.setDeadline t).status = b.status := rfl
@[simp] theorem Block.setDeadline_deadline (b : Block) (t : Nat) : (b.setDeadline t).deadline = some t := rfl
@[simp] theorem Block.setDeadline_epoch (b : Block) (t : Nat) : (b.setDeadline t).epoch = b.epoch := rfl
@[simp] theorem Block.setDeadline_halted (b : Block) (t : Nat) : (b.setDeadline t).halted = b.halted := rfl
@[simp] theorem Block.setDeadline_faults (b : Block) (t : Nat) : (b.setDeadline t).faults = b.faults := rfl

@[simp] theorem Block.setEpoch_bind (b : Block) (t : Nat) : (b.setEpoch t).bind = b.bind := rfl
@[simp] theorem Block.setEpoch_control (b : Block) (t : Nat) : (b.setEpoch t).control = b.control := rfl
@[simp] theorem Block.setEpoch_arg1 (b : Block) (t : Nat) : (b.setEpoch t).arg1 = b.arg1 := rfl
@[simp] theorem Block.setEpoch_arg2 (b : Block) (t : Nat) : (b.setEpoch t).arg2 = b.arg2 := rfl
@[simp] theorem Block.setEpoch_arg3 (b : Block) (t : Nat) : (b.setEpoch t).arg3 = b.arg3 := rfl
@[simp] theorem Block.setEpoch_result1 (b : Block) (t : Nat) : (b.setEpoch t).result1 = b.result1 := rfl
@[simp] theorem Block.setEpoch_result2 (b : Block) (t : Nat) : (b.setEpoch t).result2 = b.result2 := rfl
@[simp] theorem Block.setEpoch_sup (b : Block) (t : Nat) : (b.setEpoch t).sup = b.sup := rfl
@[simp] theorem Block.setEpoch_firstSyncDone (b : Block) (t : Nat) : (b.setEpoch t).firstSyncDone = b.firstSyncDone := rfl
@[simp] theorem Block.setEpoch_name (b : Block) (t : Nat) : (b.setEpoch t).name = b.name := rfl
@[simp] theorem Block.setEpoch_status (b : Block) (t : Nat) : (b.setEpoch t).status = b.status := rfl
@[simp] theorem Block.setEpoch_deadline (b : Block) (t : Nat) : (b.setEpoch t).deadline = b.deadline := rfl
@[simp] theorem Block.setEpoch_epoch (b : Block) (t : Nat) : (b.setEpoch t).epoch = t := rfl
@[simp] theorem Block.setEpoch_halted (b : Block) (t : Nat) : (b.setEpoch t).halted = b.halted := rfl
@[simp] theorem Block.setEpoch_faults (b : Block) (t : Nat) : (b.setEpoch t).faults = b.faults := rfl

@[simp] theorem Block.setHalted_bind (b : Block) (c : Word) : (b.setHalted c).bind = b.bind := rfl
@[simp] theorem Block.setHalted_control (b : Block) (c : Word) : (b.setHalted c).control = b.control := rfl
@[simp] theorem Block.setHalted_arg1 (b : Block) (c : Word) : (b.setHalted c).arg1 = b.arg1 := rfl
@[simp] theorem Block.setHalted_arg2 (b : Block) (c : Word) : (b.setHalted c).arg2 = b.arg2 := rfl
@[simp] theorem Block.setHalted_arg3 (b : Block) (c : Word) : (b.setHalted c).arg3 = b.arg3 := rfl
@[simp] theorem Block.setHalted_result1 (b : Block) (c : Word) : (b.setHalted c).result1 = b.result1 := rfl
@[simp] theorem Block.setHalted_result2 (b : Block) (c : Word) : (b.setHalted c).result2 = b.result2 := rfl
@[simp] theorem Block.setHalted_sup (b : Block) (c : Word) : (b.setHalted c).sup = b.sup := rfl
@[simp] theorem Block.setHalted_firstSyncDone (b : Block) (c : Word) : (b.setHalted c).firstSyncDone = b.firstSyncDone := rfl
@[simp] theorem Block.setHalted_name (b : Block) (c : Word) : (b.setHalted c).name = b.name := rfl
@[simp] theorem Block.setHalted_status (b : Block) (c : Word) : (b.setHalted c).status = b.status := rfl
@[simp] theorem Block.setHalted_deadline (b : Block) (c : Word) : (b.setHalted c).deadline = b.deadline := rfl
@[simp] theorem Block.setHalted_epoch (b : Block) (c : Word) : (b.setHalted c).epoch = b.epoch := rfl
@[simp] theorem Block.setHalted_halted (b : Block) (c : Word) : (b.setHalted c).halted = some c := rfl
@[simp] theorem Block.setHalted_faults (b : Block) (c : Word) : (b.setHalted c).faults = b.faults := rfl

@[simp] theorem Block.addFault_bind (b : Block) (f : GuestMemFault) : (b.addFault f).bind = b.bind := rfl
@[simp] theorem Block.addFault_control (b : Block) (f : GuestMemFault) : (b.addFault f).control = b.control := rfl
@[simp] theorem Block.addFault_arg1 (b : Block) (f : GuestMemFault) : (b.addFault f).arg1 = b.arg1 := rfl
@[simp] theorem Block.addFault_arg2 (b : Block) (f : GuestMemFault) : (b.addFault f).arg2 = b.arg2 := rfl
@[simp] theorem Block.addFault_arg3 (b : Block) (f : GuestMemFault) : (b.addFault f).arg3 = b.arg3 := rfl
@[simp] theorem Block.addFault_result1 (b : Block) (f : GuestMemFault) : (b.addFault f).result1 = b.result1 := rfl
@[simp] theorem Block.addFault_result2 (b : Block) (f : GuestMemFault) : (b.addFault f).result2 = b.result2 := rfl
@[simp] theorem Block.addFault_sup (b : Block) (f : GuestMemFault) : (b.addFault f).sup = b.sup := rfl
@[simp] theorem Block.addFault_firstSyncDone (b : Block) (f : GuestMemFault) : (b.addFault f).firstSyncDone = b.firstSyncDone := rfl
@[simp] theorem Block.addFault_name (b : Block) (f : GuestMemFault) : (b.addFault f).name = b.name := rfl
@[simp] theorem Block.addFault_status (b : Block) (f : GuestMemFault) : (b.addFault f).status = b.status := rfl
@[simp] theorem Block.addFault_deadline (b : Block) (f : GuestMemFault) : (b.addFault f).deadline = b.deadline := rfl
@[simp] theorem Block.addFault_epoch (b : Block) (f : GuestMemFault) : (b.addFault f).epoch = b.epoch := rfl
@[simp] theorem Block.addFault_halted (b : Block) (f : GuestMemFault) : (b.addFault f).halted = b.halted := rfl
@[simp] theorem Block.addFault_faults (b : Block) (f : GuestMemFault) : (b.addFault f).faults = if f ∈ b.faults then b.faults else b.faults ++ [f] := rfl

/-! ### Updates of the machine -/

@[simp] theorem State.onBlk_blk (s : State) (f : Block → Block) : (s.onBlk f).blk = f s.blk := rfl
@[simp] theorem State.onBlk_peers (s : State) (f : Block → Block) : (s.onBlk f).peers = s.peers := rfl
@[simp] theorem State.onBlk_now (s : State) (f : Block → Block) : (s.onBlk f).now = s.now := rfl
@[simp] theorem State.onBlk_mem (s : State) (f : Block → Block) : (s.onBlk f).mem = s.mem := rfl
@[simp] theorem State.onBlk_history (s : State) (f : Block → Block) : (s.onBlk f).history = s.history := rfl
@[simp] theorem State.onBlk_params (s : State) (f : Block → Block) : (s.onBlk f).params = s.params := rfl
@[simp] theorem State.onBlk_inputs (s : State) (f : Block → Block) : (s.onBlk f).inputs = s.inputs := rfl
@[simp] theorem State.onBlk_readData (s : State) (f : Block → Block) : (s.onBlk f).readData = s.readData := rfl
@[simp] theorem State.onBlk_answers (s : State) (f : Block → Block) : (s.onBlk f).answers = s.answers := rfl
@[simp] theorem State.onBlk_resets (s : State) (f : Block → Block) : (s.onBlk f).resets = s.resets := rfl

@[simp] theorem State.emit_blk (s : State) (e : OutEvent) : (s.emit e).blk = s.blk := rfl
@[simp] theorem State.emit_peers (s : State) (e : OutEvent) : (s.emit e).peers = s.peers := rfl
@[simp] theorem State.emit_now (s : State) (e : OutEvent) : (s.emit e).now = s.now := rfl
@[simp] theorem State.emit_mem (s : State) (e : OutEvent) : (s.emit e).mem = s.mem := rfl
@[simp] theorem State.emit_history (s : State) (e : OutEvent) : (s.emit e).history = s.history ++ [⟨s.now, e⟩] := rfl
@[simp] theorem State.emit_params (s : State) (e : OutEvent) : (s.emit e).params = s.params := rfl
@[simp] theorem State.emit_inputs (s : State) (e : OutEvent) : (s.emit e).inputs = s.inputs := rfl
@[simp] theorem State.emit_readData (s : State) (e : OutEvent) : (s.emit e).readData = s.readData := rfl
@[simp] theorem State.emit_answers (s : State) (e : OutEvent) : (s.emit e).answers = s.answers := rfl
@[simp] theorem State.emit_resets (s : State) (e : OutEvent) : (s.emit e).resets = s.resets := rfl

@[simp] theorem State.setMem_blk (s : State) (m : Memory) : (s.setMem m).blk = s.blk := rfl
@[simp] theorem State.setMem_peers (s : State) (m : Memory) : (s.setMem m).peers = s.peers := rfl
@[simp] theorem State.setMem_now (s : State) (m : Memory) : (s.setMem m).now = s.now := rfl
@[simp] theorem State.setMem_mem (s : State) (m : Memory) : (s.setMem m).mem = m := rfl
@[simp] theorem State.setMem_history (s : State) (m : Memory) : (s.setMem m).history = s.history := rfl
@[simp] theorem State.setMem_params (s : State) (m : Memory) : (s.setMem m).params = s.params := rfl
@[simp] theorem State.setMem_inputs (s : State) (m : Memory) : (s.setMem m).inputs = s.inputs := rfl
@[simp] theorem State.setMem_readData (s : State) (m : Memory) : (s.setMem m).readData = s.readData := rfl
@[simp] theorem State.setMem_answers (s : State) (m : Memory) : (s.setMem m).answers = s.answers := rfl
@[simp] theorem State.setMem_resets (s : State) (m : Memory) : (s.setMem m).resets = s.resets := rfl

@[simp] theorem State.setX_blk (s : State) (r : Reg) (v : Word) : (s.setX r v).blk = s.blk.set r v := rfl
@[simp] theorem State.setX_peers (s : State) (r : Reg) (v : Word) : (s.setX r v).peers = s.peers := rfl
@[simp] theorem State.setX_now (s : State) (r : Reg) (v : Word) : (s.setX r v).now = s.now := rfl
@[simp] theorem State.setX_mem (s : State) (r : Reg) (v : Word) : (s.setX r v).mem = s.mem := rfl
@[simp] theorem State.setX_history (s : State) (r : Reg) (v : Word) : (s.setX r v).history = s.history := rfl
@[simp] theorem State.setX_params (s : State) (r : Reg) (v : Word) : (s.setX r v).params = s.params := rfl
@[simp] theorem State.setX_inputs (s : State) (r : Reg) (v : Word) : (s.setX r v).inputs = s.inputs := rfl
@[simp] theorem State.setX_readData (s : State) (r : Reg) (v : Word) : (s.setX r v).readData = s.readData := rfl
@[simp] theorem State.setX_answers (s : State) (r : Reg) (v : Word) : (s.setX r v).answers = s.answers := rfl
@[simp] theorem State.setX_resets (s : State) (r : Reg) (v : Word) : (s.setX r v).resets = s.resets := rfl

@[simp] theorem State.setResults_blk (s : State) (r1 r2 : Word) : (s.setResults r1 r2).blk = (s.blk.set .result1 r1).set .result2 r2 := rfl
@[simp] theorem State.setResults_peers (s : State) (r1 r2 : Word) : (s.setResults r1 r2).peers = s.peers := rfl
@[simp] theorem State.setResults_now (s : State) (r1 r2 : Word) : (s.setResults r1 r2).now = s.now := rfl
@[simp] theorem State.setResults_mem (s : State) (r1 r2 : Word) : (s.setResults r1 r2).mem = s.mem := rfl
@[simp] theorem State.setResults_history (s : State) (r1 r2 : Word) : (s.setResults r1 r2).history = s.history := rfl
@[simp] theorem State.setResults_params (s : State) (r1 r2 : Word) : (s.setResults r1 r2).params = s.params := rfl
@[simp] theorem State.setResults_inputs (s : State) (r1 r2 : Word) : (s.setResults r1 r2).inputs = s.inputs := rfl
@[simp] theorem State.setResults_readData (s : State) (r1 r2 : Word) : (s.setResults r1 r2).readData = s.readData := rfl
@[simp] theorem State.setResults_answers (s : State) (r1 r2 : Word) : (s.setResults r1 r2).answers = s.answers := rfl
@[simp] theorem State.setResults_resets (s : State) (r1 r2 : Word) : (s.setResults r1 r2).resets = s.resets := rfl

@[simp] theorem State.emitTrace_blk (s : State) (t : TraceRec) : (s.emitTrace t).blk = s.blk := rfl
@[simp] theorem State.emitTrace_peers (s : State) (t : TraceRec) : (s.emitTrace t).peers = s.peers := rfl
@[simp] theorem State.emitTrace_now (s : State) (t : TraceRec) : (s.emitTrace t).now = s.now := rfl
@[simp] theorem State.emitTrace_mem (s : State) (t : TraceRec) : (s.emitTrace t).mem = s.mem := rfl
@[simp] theorem State.emitTrace_history (s : State) (t : TraceRec) : (s.emitTrace t).history = s.history ++ [⟨s.now, .trace t⟩] := rfl
@[simp] theorem State.emitTrace_params (s : State) (t : TraceRec) : (s.emitTrace t).params = s.params := rfl
@[simp] theorem State.emitTrace_inputs (s : State) (t : TraceRec) : (s.emitTrace t).inputs = s.inputs := rfl
@[simp] theorem State.emitTrace_readData (s : State) (t : TraceRec) : (s.emitTrace t).readData = s.readData := rfl
@[simp] theorem State.emitTrace_answers (s : State) (t : TraceRec) : (s.emitTrace t).answers = s.answers := rfl
@[simp] theorem State.emitTrace_resets (s : State) (t : TraceRec) : (s.emitTrace t).resets = s.resets := rfl

@[simp] theorem State.traceArgs_blk (s : State) (t : Word → Word → Word → TraceRec) : (s.traceArgs t).blk = s.blk := rfl
@[simp] theorem State.traceArgs_peers (s : State) (t : Word → Word → Word → TraceRec) : (s.traceArgs t).peers = s.peers := rfl
@[simp] theorem State.traceArgs_now (s : State) (t : Word → Word → Word → TraceRec) : (s.traceArgs t).now = s.now := rfl
@[simp] theorem State.traceArgs_mem (s : State) (t : Word → Word → Word → TraceRec) : (s.traceArgs t).mem = s.mem := rfl
@[simp] theorem State.traceArgs_history (s : State) (t : Word → Word → Word → TraceRec) : (s.traceArgs t).history = s.history ++ [⟨s.now, .trace (t s.blk.arg1 s.blk.arg2 s.blk.arg3)⟩] := rfl
@[simp] theorem State.traceArgs_params (s : State) (t : Word → Word → Word → TraceRec) : (s.traceArgs t).params = s.params := rfl
@[simp] theorem State.traceArgs_inputs (s : State) (t : Word → Word → Word → TraceRec) : (s.traceArgs t).inputs = s.inputs := rfl
@[simp] theorem State.traceArgs_readData (s : State) (t : Word → Word → Word → TraceRec) : (s.traceArgs t).readData = s.readData := rfl
@[simp] theorem State.traceArgs_answers (s : State) (t : Word → Word → Word → TraceRec) : (s.traceArgs t).answers = s.answers := rfl
@[simp] theorem State.traceArgs_resets (s : State) (t : Word → Word → Word → TraceRec) : (s.traceArgs t).resets = s.resets := rfl

@[simp] theorem State.clearResults_blk (s : State) : (s.clearResults).blk = (s.blk.set .result1 0).set .result2 0 := rfl
@[simp] theorem State.clearResults_peers (s : State) : (s.clearResults).peers = s.peers := rfl
@[simp] theorem State.clearResults_now (s : State) : (s.clearResults).now = s.now := rfl
@[simp] theorem State.clearResults_mem (s : State) : (s.clearResults).mem = s.mem := rfl
@[simp] theorem State.clearResults_history (s : State) : (s.clearResults).history = s.history := rfl
@[simp] theorem State.clearResults_params (s : State) : (s.clearResults).params = s.params := rfl
@[simp] theorem State.clearResults_inputs (s : State) : (s.clearResults).inputs = s.inputs := rfl
@[simp] theorem State.clearResults_readData (s : State) : (s.clearResults).readData = s.readData := rfl
@[simp] theorem State.clearResults_answers (s : State) : (s.clearResults).answers = s.answers := rfl
@[simp] theorem State.clearResults_resets (s : State) : (s.clearResults).resets = s.resets := rfl

@[simp] theorem State.becomeInitialized_blk (s : State) : (s.becomeInitialized).blk = s.blk.setSup .initialized := rfl
@[simp] theorem State.becomeInitialized_peers (s : State) : (s.becomeInitialized).peers = s.peers := rfl
@[simp] theorem State.becomeInitialized_now (s : State) : (s.becomeInitialized).now = s.now := rfl
@[simp] theorem State.becomeInitialized_mem (s : State) : (s.becomeInitialized).mem = s.mem := rfl
@[simp] theorem State.becomeInitialized_history (s : State) : (s.becomeInitialized).history = s.history := rfl
@[simp] theorem State.becomeInitialized_params (s : State) : (s.becomeInitialized).params = s.params := rfl
@[simp] theorem State.becomeInitialized_inputs (s : State) : (s.becomeInitialized).inputs = s.inputs := rfl
@[simp] theorem State.becomeInitialized_readData (s : State) : (s.becomeInitialized).readData = s.readData := rfl
@[simp] theorem State.becomeInitialized_answers (s : State) : (s.becomeInitialized).answers = s.answers := rfl
@[simp] theorem State.becomeInitialized_resets (s : State) : (s.becomeInitialized).resets = s.resets := rfl

@[simp] theorem State.markSynced_blk (s : State) : (s.markSynced).blk = s.blk.setFirstSync true := rfl
@[simp] theorem State.markSynced_peers (s : State) : (s.markSynced).peers = s.peers := rfl
@[simp] theorem State.markSynced_now (s : State) : (s.markSynced).now = s.now := rfl
@[simp] theorem State.markSynced_mem (s : State) : (s.markSynced).mem = s.mem := rfl
@[simp] theorem State.markSynced_history (s : State) : (s.markSynced).history = s.history := rfl
@[simp] theorem State.markSynced_params (s : State) : (s.markSynced).params = s.params := rfl
@[simp] theorem State.markSynced_inputs (s : State) : (s.markSynced).inputs = s.inputs := rfl
@[simp] theorem State.markSynced_readData (s : State) : (s.markSynced).readData = s.readData := rfl
@[simp] theorem State.markSynced_answers (s : State) : (s.markSynced).answers = s.answers := rfl
@[simp] theorem State.markSynced_resets (s : State) : (s.markSynced).resets = s.resets := rfl

@[simp] theorem State.raiseIrq_blk (s : State) : (s.raiseIrq).blk = s.blk := rfl
@[simp] theorem State.raiseIrq_peers (s : State) : (s.raiseIrq).peers = s.peers := rfl
@[simp] theorem State.raiseIrq_now (s : State) : (s.raiseIrq).now = s.now := rfl
@[simp] theorem State.raiseIrq_mem (s : State) : (s.raiseIrq).mem = s.mem := rfl
@[simp] theorem State.raiseIrq_history (s : State) : (s.raiseIrq).history = s.history ++ [⟨s.now, .irq s.blk.bind.irqLine⟩] := rfl
@[simp] theorem State.raiseIrq_params (s : State) : (s.raiseIrq).params = s.params := rfl
@[simp] theorem State.raiseIrq_inputs (s : State) : (s.raiseIrq).inputs = s.inputs := rfl
@[simp] theorem State.raiseIrq_readData (s : State) : (s.raiseIrq).readData = s.readData := rfl
@[simp] theorem State.raiseIrq_answers (s : State) : (s.raiseIrq).answers = s.answers := rfl
@[simp] theorem State.raiseIrq_resets (s : State) : (s.raiseIrq).resets = s.resets := rfl

@[simp] theorem State.rearm_blk (s : State) : (s.rearm).blk = s.blk.setDeadline (s.now + tickPeriodMs) := rfl
@[simp] theorem State.rearm_peers (s : State) : (s.rearm).peers = s.peers := rfl
@[simp] theorem State.rearm_now (s : State) : (s.rearm).now = s.now := rfl
@[simp] theorem State.rearm_mem (s : State) : (s.rearm).mem = s.mem := rfl
@[simp] theorem State.rearm_history (s : State) : (s.rearm).history = s.history := rfl
@[simp] theorem State.rearm_params (s : State) : (s.rearm).params = s.params := rfl
@[simp] theorem State.rearm_inputs (s : State) : (s.rearm).inputs = s.inputs := rfl
@[simp] theorem State.rearm_readData (s : State) : (s.rearm).readData = s.readData := rfl
@[simp] theorem State.rearm_answers (s : State) : (s.rearm).answers = s.answers := rfl
@[simp] theorem State.rearm_resets (s : State) : (s.rearm).resets = s.resets := rfl

@[simp] theorem State.guestMemFault_blk (s : State) (d : Dir) (a n : Nat) : (s.guestMemFault d a n).blk = s.blk.addFault ⟨d, a, n⟩ := rfl
@[simp] theorem State.guestMemFault_peers (s : State) (d : Dir) (a n : Nat) : (s.guestMemFault d a n).peers = s.peers := rfl
@[simp] theorem State.guestMemFault_now (s : State) (d : Dir) (a n : Nat) : (s.guestMemFault d a n).now = s.now := rfl
@[simp] theorem State.guestMemFault_mem (s : State) (d : Dir) (a n : Nat) : (s.guestMemFault d a n).mem = s.mem := rfl
@[simp] theorem State.guestMemFault_history (s : State) (d : Dir) (a n : Nat) : (s.guestMemFault d a n).history = s.history := rfl
@[simp] theorem State.guestMemFault_params (s : State) (d : Dir) (a n : Nat) : (s.guestMemFault d a n).params = s.params := rfl
@[simp] theorem State.guestMemFault_inputs (s : State) (d : Dir) (a n : Nat) : (s.guestMemFault d a n).inputs = s.inputs := rfl
@[simp] theorem State.guestMemFault_readData (s : State) (d : Dir) (a n : Nat) : (s.guestMemFault d a n).readData = s.readData := rfl
@[simp] theorem State.guestMemFault_answers (s : State) (d : Dir) (a n : Nat) : (s.guestMemFault d a n).answers = s.answers := rfl
@[simp] theorem State.guestMemFault_resets (s : State) (d : Dir) (a n : Nat) : (s.guestMemFault d a n).resets = s.resets := rfl

@[simp] theorem State.afterRead_blk (s : State) (a n : Nat) : (s.afterRead a n).blk = s.blk := rfl
@[simp] theorem State.afterRead_peers (s : State) (a n : Nat) : (s.afterRead a n).peers = s.peers := rfl
@[simp] theorem State.afterRead_now (s : State) (a n : Nat) : (s.afterRead a n).now = s.now := rfl
@[simp] theorem State.afterRead_mem (s : State) (a n : Nat) : (s.afterRead a n).mem = s.mem := rfl
@[simp] theorem State.afterRead_history (s : State) (a n : Nat) : (s.afterRead a n).history = s.history ++ [⟨s.now, .guestRead a (s.guestBytes a n).toList⟩] := rfl
@[simp] theorem State.afterRead_params (s : State) (a n : Nat) : (s.afterRead a n).params = s.params := rfl
@[simp] theorem State.afterRead_inputs (s : State) (a n : Nat) : (s.afterRead a n).inputs = s.inputs := rfl
@[simp] theorem State.afterRead_readData (s : State) (a n : Nat) : (s.afterRead a n).readData = s.readData := rfl
@[simp] theorem State.afterRead_answers (s : State) (a n : Nat) : (s.afterRead a n).answers = s.answers + 1 := rfl
@[simp] theorem State.afterRead_resets (s : State) (a n : Nat) : (s.afterRead a n).resets = s.resets := rfl

@[simp] theorem State.afterWrite_blk (s : State) (a : Nat) (v : List Byte) : (s.afterWrite a v).blk = s.blk := rfl
@[simp] theorem State.afterWrite_peers (s : State) (a : Nat) (v : List Byte) : (s.afterWrite a v).peers = s.peers := rfl
@[simp] theorem State.afterWrite_now (s : State) (a : Nat) (v : List Byte) : (s.afterWrite a v).now = s.now := rfl
@[simp] theorem State.afterWrite_mem (s : State) (a : Nat) (v : List Byte) : (s.afterWrite a v).mem = Memory.writeBytes s.mem a v := rfl
@[simp] theorem State.afterWrite_history (s : State) (a : Nat) (v : List Byte) : (s.afterWrite a v).history = s.history ++ [⟨s.now, .guestWrite a v⟩] := rfl
@[simp] theorem State.afterWrite_params (s : State) (a : Nat) (v : List Byte) : (s.afterWrite a v).params = s.params := rfl
@[simp] theorem State.afterWrite_inputs (s : State) (a : Nat) (v : List Byte) : (s.afterWrite a v).inputs = s.inputs := rfl
@[simp] theorem State.afterWrite_readData (s : State) (a : Nat) (v : List Byte) : (s.afterWrite a v).readData = s.readData := rfl
@[simp] theorem State.afterWrite_answers (s : State) (a : Nat) (v : List Byte) : (s.afterWrite a v).answers = s.answers := rfl
@[simp] theorem State.afterWrite_resets (s : State) (a : Nat) (v : List Byte) : (s.afterWrite a v).resets = s.resets := rfl

@[simp] theorem State.setNow_blk (s : State) (t : Nat) : (s.setNow t).blk = s.blk := rfl
@[simp] theorem State.setNow_peers (s : State) (t : Nat) : (s.setNow t).peers = s.peers := rfl
@[simp] theorem State.setNow_now (s : State) (t : Nat) : (s.setNow t).now = t := rfl
@[simp] theorem State.setNow_mem (s : State) (t : Nat) : (s.setNow t).mem = s.mem := rfl
@[simp] theorem State.setNow_history (s : State) (t : Nat) : (s.setNow t).history = s.history := rfl
@[simp] theorem State.setNow_params (s : State) (t : Nat) : (s.setNow t).params = s.params := rfl
@[simp] theorem State.setNow_inputs (s : State) (t : Nat) : (s.setNow t).inputs = s.inputs := rfl
@[simp] theorem State.setNow_readData (s : State) (t : Nat) : (s.setNow t).readData = s.readData := rfl
@[simp] theorem State.setNow_answers (s : State) (t : Nat) : (s.setNow t).answers = s.answers := rfl
@[simp] theorem State.setNow_resets (s : State) (t : Nat) : (s.setNow t).resets = s.resets := rfl

@[simp] theorem State.setInputs_blk (s : State) (q : List Event) : (s.setInputs q).blk = s.blk := rfl
@[simp] theorem State.setInputs_peers (s : State) (q : List Event) : (s.setInputs q).peers = s.peers := rfl
@[simp] theorem State.setInputs_now (s : State) (q : List Event) : (s.setInputs q).now = s.now := rfl
@[simp] theorem State.setInputs_mem (s : State) (q : List Event) : (s.setInputs q).mem = s.mem := rfl
@[simp] theorem State.setInputs_history (s : State) (q : List Event) : (s.setInputs q).history = s.history := rfl
@[simp] theorem State.setInputs_params (s : State) (q : List Event) : (s.setInputs q).params = s.params := rfl
@[simp] theorem State.setInputs_inputs (s : State) (q : List Event) : (s.setInputs q).inputs = q := rfl
@[simp] theorem State.setInputs_readData (s : State) (q : List Event) : (s.setInputs q).readData = s.readData := rfl
@[simp] theorem State.setInputs_answers (s : State) (q : List Event) : (s.setInputs q).answers = s.answers := rfl
@[simp] theorem State.setInputs_resets (s : State) (q : List Event) : (s.setInputs q).resets = s.resets := rfl

@[simp] theorem State.setReadData_blk (s : State) (v : List Byte) : (s.setReadData v).blk = s.blk := rfl
@[simp] theorem State.setReadData_peers (s : State) (v : List Byte) : (s.setReadData v).peers = s.peers := rfl
@[simp] theorem State.setReadData_now (s : State) (v : List Byte) : (s.setReadData v).now = s.now := rfl
@[simp] theorem State.setReadData_mem (s : State) (v : List Byte) : (s.setReadData v).mem = s.mem := rfl
@[simp] theorem State.setReadData_history (s : State) (v : List Byte) : (s.setReadData v).history = s.history := rfl
@[simp] theorem State.setReadData_params (s : State) (v : List Byte) : (s.setReadData v).params = s.params := rfl
@[simp] theorem State.setReadData_inputs (s : State) (v : List Byte) : (s.setReadData v).inputs = s.inputs := rfl
@[simp] theorem State.setReadData_readData (s : State) (v : List Byte) : (s.setReadData v).readData = v := rfl
@[simp] theorem State.setReadData_answers (s : State) (v : List Byte) : (s.setReadData v).answers = s.answers := rfl
@[simp] theorem State.setReadData_resets (s : State) (v : List Byte) : (s.setReadData v).resets = s.resets := rfl

@[simp] theorem State.nextAnswer_blk (s : State) : (s.nextAnswer).blk = s.blk := rfl
@[simp] theorem State.nextAnswer_peers (s : State) : (s.nextAnswer).peers = s.peers := rfl
@[simp] theorem State.nextAnswer_now (s : State) : (s.nextAnswer).now = s.now := rfl
@[simp] theorem State.nextAnswer_mem (s : State) : (s.nextAnswer).mem = s.mem := rfl
@[simp] theorem State.nextAnswer_history (s : State) : (s.nextAnswer).history = s.history := rfl
@[simp] theorem State.nextAnswer_params (s : State) : (s.nextAnswer).params = s.params := rfl
@[simp] theorem State.nextAnswer_inputs (s : State) : (s.nextAnswer).inputs = s.inputs := rfl
@[simp] theorem State.nextAnswer_readData (s : State) : (s.nextAnswer).readData = s.readData := rfl
@[simp] theorem State.nextAnswer_answers (s : State) : (s.nextAnswer).answers = s.answers + 1 := rfl
@[simp] theorem State.nextAnswer_resets (s : State) : (s.nextAnswer).resets = s.resets := rfl

/-! ### Operands in the fields -/

@[simp] theorem State.a1_eq (s : State) : s.a1 = s.blk.arg1 := rfl
@[simp] theorem State.a2_eq (s : State) : s.a2 = s.blk.arg2 := rfl
@[simp] theorem State.a3_eq (s : State) : s.a3 = s.blk.arg3 := rfl
@[simp] theorem State.guestAddr_eq (s : State) : s.guestAddr = s.blk.arg1.toNat := rfl

end Sys2Proof.Machine
end

