-- ==== Sys2Proof/Laws/Ops.lean ====
section
/-! SUPPORT. What each shared operation can do, said once: the master port, the focus on one instance, the bus port, the
agents' steps, and which commands can stop. -/

namespace Sys2Proof.Machine

/-! ### The master port -/

theorem State.memRead_admitted (s : State) (addr n : Nat) (rest : Vector Byte n → State → State)
    (h : s.guestMemOk addr n = true) : s.memRead addr n rest = rest (s.guestBytes addr n) (s.afterRead addr n) := by
  simp [State.memRead, h]

theorem State.memRead_not_admitted (s : State) (addr n : Nat) (rest : Vector Byte n → State → State)
    (h : s.guestMemOk addr n = false) : s.memRead addr n rest = s.guestMemFault .read addr n := by
  simp [State.memRead, h]

theorem State.memWrite_admitted (s : State) (addr : Nat) (bytes : List Byte) (rest : State → State)
    (h : s.guestMemOk addr bytes.length = true) : s.memWrite addr bytes rest = rest (s.afterWrite addr bytes) := by
  simp [State.memWrite, h]

theorem State.memWrite_not_admitted (s : State) (addr : Nat) (bytes : List Byte) (rest : State → State)
    (h : s.guestMemOk addr bytes.length = false) :
    s.memWrite addr bytes rest = s.guestMemFault .write addr bytes.length := by
  simp [State.memWrite, h]

/-- Admission looks at the bindings and the parameters only. -/
theorem State.guestMemOk_congr (s t : State) (addr n : Nat) (hb : t.blocks.map (fun b => b.bind) = s.blocks.map (fun b => b.bind))
    (hp : t.params = s.params) : t.guestMemOk addr n = s.guestMemOk addr n := by
  have key : ∀ (l : List Block), l.all (fun b => !overlapsWindow b.bind addr n) =
      (l.map (fun b => b.bind)).all (fun b => !overlapsWindow b addr n) := by
    intro l; rw [List.all_map]; rfl
  simp only [State.guestMemOk, State.inGuestMemory, key, hb, hp]

@[simp] theorem State.clearResults_guestMemOk (s : State) (addr n : Nat) :
    s.clearResults.guestMemOk addr n = s.guestMemOk addr n :=
  State.guestMemOk_congr s s.clearResults addr n (by simp [State.blocks]) rfl

/-- Admission keeps a transfer inside the 32-bit space. -/
theorem State.guestMemOk_le (s : State) (addr n : Nat) (h : s.guestMemOk addr n = true) : addr + n ≤ 2 ^ 32 := by
  simp only [State.guestMemOk, State.inGuestMemory, Bool.and_eq_true, decide_eq_true_eq] at h
  exact h.1.1

/-- Admission keeps a transfer off every instance's register window. -/
theorem State.guestMemOk_off_windows (s : State) (addr n : Nat) (h : s.guestMemOk addr n = true) (b : Block)
    (hb : b ∈ s.blocks) : overlapsWindow b.bind addr n = false := by
  simp only [State.guestMemOk, State.inGuestMemory, Bool.and_eq_true, List.all_eq_true] at h
  simpa using h.1.2 b hb

@[simp] theorem State.clearResults_guestBytes (s : State) (addr n : Nat) :
    s.clearResults.guestBytes addr n = s.guestBytes addr n := rfl

/-! ### The instance in focus -/

@[simp] theorem State.focus_zero (s : State) : s.focus 0 = s := rfl

theorem State.focus_succ (s : State) (j : Nat) (p : Block) (h : s.peers[j]? = some p) :
    s.focus (j + 1) = { s with blk := p, peers := s.peers.set j s.blk } := by
  simp [State.focus, h]

/-- The focus changes which instance stands first, and nothing of the platform. -/
@[simp] theorem State.focus_now (s : State) (k : Nat) : (s.focus k).now = s.now := by
  unfold State.focus; split <;> [rfl; (split <;> rfl)]
@[simp] theorem State.focus_mem (s : State) (k : Nat) : (s.focus k).mem = s.mem := by
  unfold State.focus; split <;> [rfl; (split <;> rfl)]
@[simp] theorem State.focus_history (s : State) (k : Nat) : (s.focus k).history = s.history := by
  unfold State.focus; split <;> [rfl; (split <;> rfl)]
@[simp] theorem State.focus_params (s : State) (k : Nat) : (s.focus k).params = s.params := by
  unfold State.focus; split <;> [rfl; (split <;> rfl)]
@[simp] theorem State.focus_inputs (s : State) (k : Nat) : (s.focus k).inputs = s.inputs := by
  unfold State.focus; split <;> [rfl; (split <;> rfl)]
@[simp] theorem State.focus_readData (s : State) (k : Nat) : (s.focus k).readData = s.readData := by
  unfold State.focus; split <;> [rfl; (split <;> rfl)]
@[simp] theorem State.focus_answers (s : State) (k : Nat) : (s.focus k).answers = s.answers := by
  unfold State.focus; split <;> [rfl; (split <;> rfl)]
@[simp] theorem State.focus_resets (s : State) (k : Nat) : (s.focus k).resets = s.resets := by
  unfold State.focus; split <;> [rfl; (split <;> rfl)]
@[simp] theorem State.focus_peers_length (s : State) (k : Nat) : (s.focus k).peers.length = s.peers.length := by
  unfold State.focus; split <;> [rfl; (split <;> simp)]

/-- The focus is its own inverse. -/
@[simp] theorem State.focus_focus (s : State) (k : Nat) : (s.focus k).focus k = s := by
  cases k with
  | zero => rfl
  | succ j =>
    cases hj : s.peers[j]? with
    | none => simp [State.focus, hj]
    | some p =>
      have hlt := (List.getElem?_eq_some_iff.1 hj).1
      have hp := (List.getElem?_eq_some_iff.1 hj).2
      rw [State.focus_succ s j p hj, State.focus_succ _ j s.blk (by simp [hlt])]
      simp [← hp]

/-- The focus does not meet what is not an instance's. -/
@[simp] theorem State.setReadData_focus (s : State) (v : List Byte) (k : Nat) :
    (s.setReadData v).focus k = (s.focus k).setReadData v := by
  unfold State.focus; split <;> [rfl; (simp only [State.setReadData_peers]; split <;> rfl)]
@[simp] theorem State.setInputs_focus (s : State) (q : List Event) (k : Nat) :
    (s.setInputs q).focus k = (s.focus k).setInputs q := by
  unfold State.focus; split <;> [rfl; (simp only [State.setInputs_peers]; split <;> rfl)]

@[simp] theorem State.setInputs_over (s : State) (q : List Event) : (s.setInputs q).over = s.over := rfl
@[simp] theorem State.setInputs_inst? (s : State) (q : List Event) (k : Nat) : (s.setInputs q).inst? k = s.inst? k := rfl
@[simp] theorem State.setInputs_blocks (s : State) (q : List Event) : (s.setInputs q).blocks = s.blocks := rfl

/-- An instance that exists is in range. -/
theorem State.inst?_le (s : State) (k : Nat) (b : Block) (h : s.inst? k = some b) : k ≤ s.peers.length := by
  have := (List.getElem?_eq_some_iff.1 h).1
  simp only [State.blocks, List.length_cons] at this
  omega

/-- The instance brought into focus. -/
theorem State.focus_blk (s : State) (k : Nat) (b : Block) (h : s.inst? k = some b) : (s.focus k).blk = b := by
  cases k with
  | zero => simpa [State.inst?, State.blocks] using h
  | succ j =>
    have hj : s.peers[j]? = some b := by simpa [State.inst?, State.blocks] using h
    rw [State.focus_succ s j b hj]

/-- The focus is a rearrangement: the same instances. -/
theorem State.mem_focus_blocks (s : State) (k : Nat) (b : Block) : b ∈ (s.focus k).blocks ↔ b ∈ s.blocks := by
  cases k with
  | zero => rfl
  | succ j =>
    cases hj : s.peers[j]? with
    | none => simp [State.focus, hj]
    | some p =>
      rw [State.focus_succ s j p hj]
      have hlt : j < s.peers.length := (List.getElem?_eq_some_iff.1 hj).1
      have hp : s.peers[j] = p := (List.getElem?_eq_some_iff.1 hj).2
      simp only [State.blocks, List.mem_cons]
      constructor
      · rintro (rfl | h)
        · exact .inr (hp ▸ List.getElem_mem hlt)
        · rcases List.mem_or_eq_of_mem_set h with h | rfl
          · exact .inr h
          · exact .inl rfl
      · rintro (rfl | h)
        · exact .inr (List.mem_set hlt _)
        · obtain ⟨i, hi, rfl⟩ := List.mem_iff_getElem.1 h
          by_cases hij : i = j
          · subst hij; exact .inl hp
          · exact .inr (List.mem_iff_getElem.2 ⟨i, by simpa using hi, by rw [List.getElem_set_ne (by omega)]⟩)

/-- Another instance is where it was after a step at instance `k` that left the rest alone. -/
theorem State.focus_back_inst (s t : State) (k j : Nat) (hk : k ≤ s.peers.length) (hne : j ≠ k)
    (hp : t.peers = (s.focus k).peers) : (t.focus k).inst? j = s.inst? j := by
  cases k with
  | zero =>
    cases j with
    | zero => exact absurd rfl hne
    | succ i => simp only [State.focus_zero] at hp; simp [State.inst?, State.blocks, hp]
  | succ k =>
    have hs : s.peers[k]? = some (s.peers[k]'(by omega)) := List.getElem?_eq_getElem (by omega)
    rw [State.focus_succ s k _ hs] at hp
    have ht : t.peers[k]? = some s.blk := by
      have hlt : k < s.peers.length := by omega
      simp [hp, hlt]
    rw [State.focus_succ t k s.blk ht]
    cases j with
    | zero => rfl
    | succ i =>
      have hik : k ≠ i := by omega
      simp [State.inst?, State.blocks, hp, hik]

/-- The instance the step was at holds what the step left in focus. -/
theorem State.focus_back_self (s t : State) (k : Nat) (hk : k ≤ s.peers.length) (hp : t.peers = (s.focus k).peers) :
    (t.focus k).inst? k = some t.blk := by
  cases k with
  | zero => rfl
  | succ k =>
    have hs : s.peers[k]? = some (s.peers[k]'(by omega)) := List.getElem?_eq_getElem (by omega)
    rw [State.focus_succ s k _ hs] at hp
    have ht : t.peers[k]? = some s.blk := by
      have hlt : k < s.peers.length := by omega
      simp [hp, hlt]
    rw [State.focus_succ t k s.blk ht]
    have : k < t.peers.length := (List.getElem?_eq_some_iff.1 ht).1
    simp [State.inst?, State.blocks, this]

/-- A next state of `atInst` comes from a next state of the step at that instance. -/
theorem atInst_next (k : Nat) (f : State → Answer) (s u : State) (h : atInst k f s = .next u) :
    k ≤ s.peers.length ∧ ∃ t, f (s.focus k) = .next t ∧ u = t.focus k := by
  unfold atInst at h
  split at h
  · rename_i hk
    cases hf : f (s.focus k) with
    | next t => rw [hf] at h; simp only [mapNext, Host.Outcome.next.injEq] at h; exact ⟨hk, t, rfl, h.symm⟩
    | fault r => rw [hf] at h; simp [mapNext] at h
    | refused r => rw [hf] at h; simp [mapNext] at h
  · simp at h

/-- At the instance in focus nothing is moved. -/
theorem atInst_zero (f : State → Answer) (s : State) : atInst 0 f s = f s := by
  simp only [atInst, Nat.zero_le, if_true, State.focus_zero]
  cases f s <;> rfl

/-! ### The agents -/

theorem timerStep_next (fresh : StatusBytes) (s t : State) (h : timerStep fresh s = .next t) :
    s.tickDue = true ∧ t = s.tick fresh := by
  unfold timerStep at h
  split at h
  · rename_i hd; simp only [Host.Outcome.next.injEq] at h; exact ⟨hd, h.symm⟩
  · simp at h

/-- The three ways a tick goes, its re-arm included. -/
theorem State.tick_cases (s : State) (fresh : StatusBytes) :
    (s.blk.sup = .uninitialized ∧ s.thresholdReached = false ∧ s.tick fresh = s.rearm) ∨
    (s.blk.sup = .uninitialized ∧ s.thresholdReached = true ∧
      s.tick fresh = ((s.onBlk (fun b => b.setStatus fresh)).handshakeTick).rearm) ∨
    (s.blk.sup = .initialized ∧ s.tick fresh = ((s.onBlk (fun b => b.setStatus fresh)).initializedTick).rearm) := by
  cases hs : s.blk.sup with
  | uninitialized =>
    cases ht : s.thresholdReached with
    | false => left; simp [State.tick, State.tickBody, hs, ht]
    | true => right; left; simp [State.tick, State.tickBody, hs, ht]
  | initialized => right; right; simp [State.tick, State.tickBody, hs]

theorem clockStep_next (ms : Nat) (s t : State) (h : clockStep ms s = .next t) :
    s.mayAdvance ms = true ∧ t = s.setNow (s.now + ms) := by
  unfold clockStep at h
  split at h
  · rename_i hd; simp only [Host.Outcome.next.injEq] at h; exact ⟨hd, h.symm⟩
  · simp at h

theorem guestStoreStep_next (addr : Nat) (bytes : List Byte) (s t : State)
    (h : guestStoreStep addr bytes s = .next t) :
    s.inGuestMemory addr bytes.length = true ∧ t = s.setMem (Memory.writeBytes s.mem addr bytes) := by
  unfold guestStoreStep at h
  split at h
  · rename_i hd; simp only [Host.Outcome.next.injEq] at h; exact ⟨hd, h.symm⟩
  · simp at h

/-- A next state of a bus write: nothing, an argument stored, or a command run on its stored word. -/
theorem busWrite_next (off : Nat) (bytes : List Byte) (s t : State) (h : busWrite off bytes s = .next t) :
    t = s ∨ (∃ r v, (r = .arg1 ∨ r = .arg2 ∨ r = .arg3) ∧ t = s.setX r v) ∨
      ∃ v, exec (decodeWord v) (s.setX .control v) = .next t := by
  unfold busWrite at h
  split at h
  · split at h
    · rename_i r v _ _
      cases r <;> simp only [writeReg, Host.Outcome.next.injEq] at h
      · exact .inr (.inr ⟨v, h⟩)
      · exact .inr (.inl ⟨.arg1, v, .inl rfl, h.symm⟩)
      · exact .inr (.inl ⟨.arg2, v, .inr (.inl rfl), h.symm⟩)
      · exact .inr (.inl ⟨.arg3, v, .inr (.inr rfl), h.symm⟩)
      · exact .inl h.symm
      · exact .inl h.symm
    · simp only [Host.Outcome.next.injEq] at h; exact .inl h.symm
  · simp only [Host.Outcome.next.injEq] at h; exact .inl h.symm

/-- A next state of a bus access: a read's value, or what a write left. -/
theorem busAccess_next (a : BusAccess) (s t : State) (h : busAccess a s = .next t) :
    (∃ v, t = s.setReadData v) ∨ ∃ off bytes, a = .write off bytes ∧ busWrite off bytes s = .next t := by
  unfold busAccess at h
  split at h
  · cases a with
    | read off size =>
      simp only [busRead, Host.Outcome.next.injEq] at h
      exact .inl ⟨_, h.symm⟩
    | write off bytes => exact .inr ⟨off, bytes, rfl, h⟩
  · simp at h

/-- The first event of the queue is the step, while the run is not over. -/
theorem step_event (s : State) (e : Event) (rest : List Event) (ho : s.over = false) (hi : s.inputs = e :: rest) :
    step s = runEvent e (s.setInputs rest) := by
  simp [step, ho, hi]

/-- A step that answers a next state: the run is not over, and either nothing was scheduled or the first event ran. -/
theorem step_next (s t : State) (h : step s = .next t) :
    s.over = false ∧ ((s.inputs = [] ∧ t = s) ∨
      ∃ e rest, s.inputs = e :: rest ∧ runEvent e (s.setInputs rest) = .next t) := by
  unfold step at h
  split at h
  · simp at h
  · rename_i ho
    refine ⟨by simpa using ho, ?_⟩
    split at h
    · rename_i he; simp only [Host.Outcome.next.injEq] at h; exact .inl ⟨he, h.symm⟩
    · rename_i e rest he; exact .inr ⟨e, rest, he, h⟩

/-! ### The commands -/

/-- What a command may change beside the results, less the two transfers and the exit: a trace or character appended. -/
inductive CommandEffect (s t : State) : Prop where
  /-- Only the results: R112, R113, R120, R141. -/
  | resultsOnly (r1 r2 : Word) (h : t = s.setResults r1 r2)
  /-- One output event that is neither a pulse nor an exit: R100 to R102, R110, R111, R114, R115, R121, R122, R131, R142. -/
  | output (e : OutEvent) (hi : ∀ line, e ≠ .irq line) (hx : ∀ c, e ≠ .exit c) (h : t = s.clearResults.emit e)
  /-- The timer armed: R130. -/
  | armed (h : t = s.clearResults.arm)
  /-- A transfer that is not admitted: R53. -/
  | faulted (d : Dir) (n : Nat) (h : t = s.clearResults.guestMemFault d s.guestAddr n)
  /-- The name taken: R133. -/
  | named (hok : s.guestMemOk s.guestAddr nameCopyLen = true)
      (h : t = State.takeName (s.guestBytes s.guestAddr nameCopyLen) (s.clearResults.afterRead s.guestAddr nameCopyLen))
  /-- The status stored: R134. -/
  | synced (hok : s.guestMemOk s.guestAddr Config.statusLen = true)
      (h : t = (s.clearResults.afterWrite s.guestAddr s.blk.status.toList).markSynced)
  /-- The run ended: R140. -/
  | exited (h : t = (s.clearResults.emit (.exit s.a1)).onBlk (fun b => b.setHalted s.a1))

/-- Everything a command's next state can be. -/
theorem exec_next (i : Instr) (s t : State) (h : exec i s = .next t) : CommandEffect s t := by
  cases i with
  | compInit =>
    simp only [exec, execCompInit] at h
    split at h
    · simp at h
    · simp only [Host.Outcome.next.injEq] at h; exact .armed h.symm
  | compSetname =>
    simp only [exec, execCompSetname, Host.Outcome.next.injEq] at h
    cases hok : s.guestMemOk s.guestAddr nameCopyLen with
    | true =>
      rw [State.memRead_admitted _ _ _ _ (by simpa using hok), State.clearResults_guestBytes] at h
      exact .named hok h.symm
    | false =>
      rw [State.memRead_not_admitted _ _ _ _ (by simpa using hok)] at h
      exact .faulted _ _ h.symm
  | compGetstatus =>
    simp only [exec, execCompGetstatus, Host.Outcome.next.injEq] at h
    have hlen : s.blk.status.toList.length = Config.statusLen := Vector.length_toList
    cases hok : s.guestMemOk s.guestAddr Config.statusLen with
    | true =>
      rw [State.memWrite_admitted _ _ _ _ (by rw [hlen]; simpa using hok)] at h
      exact .synced hok h.symm
    | false =>
      rw [State.memWrite_not_admitted _ _ _ _ (by rw [hlen]; simpa using hok)] at h
      exact .faulted _ _ h.symm
  | sysExit =>
    simp only [exec, execSysExit, Host.Outcome.next.injEq] at h
    exact .exited h.symm
  | motGet =>
    simp only [exec, execMotGet, Host.Outcome.next.injEq] at h
    exact .resultsOnly motorGetValue 0 h.symm
  | gpioGetin =>
    simp only [exec, execGpioGetin, Host.Outcome.next.injEq] at h
    exact .resultsOnly 0 0 h.symm
  | gpioGetout =>
    simp only [exec, execGpioGetout, Host.Outcome.next.injEq] at h
    exact .resultsOnly 0 0 h.symm
  | sysBreak =>
    simp only [exec, execSysBreak, Host.Outcome.next.injEq] at h
    exact .resultsOnly 0 0 h.symm
  | serPutc =>
    simp only [exec, execSerPutc, Host.Outcome.next.injEq] at h
    exact .output _ (by simp) (by simp) h.symm
  | serInit =>
    simp only [exec, execSerInit, Host.Outcome.next.injEq] at h
    exact .output _ (by simp) (by simp) h.symm
  | serShutdown =>
    simp only [exec, execSerShutdown, Host.Outcome.next.injEq] at h
    exact .output _ (by simp) (by simp) h.symm
  | gpioAdcinit =>
    simp only [exec, execGpioAdcinit, Host.Outcome.next.injEq] at h
    exact .output _ (by simp) (by simp) h.symm
  | gpioSetdir =>
    simp only [exec, execGpioSetdir, Host.Outcome.next.injEq] at h
    exact .output _ (by simp) (by simp) h.symm
  | gpioSetout =>
    simp only [exec, execGpioSetout, Host.Outcome.next.injEq] at h
    exact .output _ (by simp) (by simp) h.symm
  | gpioSetimask =>
    simp only [exec, execGpioSetimask, Host.Outcome.next.injEq] at h
    exact .output _ (by simp) (by simp) h.symm
  | motSet =>
    simp only [exec, execMotSet, Host.Outcome.next.injEq] at h
    exact .output _ (by simp) (by simp) h.symm
  | motStopall =>
    simp only [exec, execMotStopall, Host.Outcome.next.injEq] at h
    exact .output _ (by simp) (by simp) h.symm
  | compStandalone =>
    simp only [exec, execCompStandalone, Host.Outcome.next.injEq] at h
    exact .output _ (by simp) (by simp) h.symm
  | unknown m f =>
    simp only [exec, execUnknown, Host.Outcome.next.injEq] at h
    exact .output _ (by simp) (by simp) h.symm

end Sys2Proof.Machine
end

