-- ==== Sys2Proof/Laws/Local.lean ====
section
/-! SUPPORT. What one step of one instance can do, said once for a bus access and for a tick: `LocalEffect`, and where it
stands in the whole machine. The invariants and the frames of a step are read off it. -/

namespace Sys2Proof.Machine

/-- What a bus access or a tick of the instance in focus can change (10_state.md R34). -/
structure LocalEffect (s t : State) : Prop where
  peers : t.peers = s.peers
  now : t.now = s.now
  params : t.params = s.params
  inputs : t.inputs = s.inputs
  resets : t.resets = s.resets
  /-- Outputs are appended, tagged with the step's time (00_scope.md R9). -/
  history : ∃ new, t.history = s.history ++ new ∧ ∀ r ∈ new, r.time = s.now
  mem_wf : Memory.wf s.mem → Memory.wf t.mem
  bind : t.blk.bind = s.blk.bind
  sup_stays : s.blk.sup = .initialized → t.blk.sup = .initialized
  sync_stays : s.blk.firstSyncDone = true → t.blk.firstSyncDone = true
  armed_stays : s.blk.deadline ≠ none → t.blk.deadline ≠ none
  faults_stay : ∀ f ∈ s.blk.faults, f ∈ t.blk.faults
  faults_nodup : s.blk.faults.Nodup → t.blk.faults.Nodup
  name_tail : t.blk.name.toList.drop 4 = s.blk.name.toList.drop 4
  epoch_zero : s.params.initEpoch = .clockZero → t.blk.epoch = s.blk.epoch
  epoch_past : s.blk.epoch ≤ s.now → t.blk.epoch ≤ s.now
  deadline : t.blk.deadline = s.blk.deadline ∨ t.blk.deadline = some (s.now + firstTickMs) ∨
    t.blk.deadline = some (s.now + tickPeriodMs)
  /-- The handshake needs an armed timer and the threshold (60_exceptions.md R202, R204). -/
  handshake : s.blk.sup = .initialized ∨ t.blk.sup = .uninitialized ∨
    (s.blk.deadline ≠ none ∧ initDelayMs ≤ s.now - s.blk.epoch)
  /-- A halt stands beside its Exit at the end of the history (44_system_default.md R140). -/
  exit_last : s.blk.halted = none → ∀ c, t.blk.halted = some c → t.history.getLast? = some ⟨s.now, .exit c⟩

theorem LocalEffect.refl (s : State) : LocalEffect s s where
  peers := rfl
  now := rfl
  params := rfl
  inputs := rfl
  resets := rfl
  history := ⟨[], by simp, by simp⟩
  mem_wf := id
  bind := rfl
  sup_stays := id
  sync_stays := id
  armed_stays := id
  faults_stay := fun _ h => h
  faults_nodup := id
  name_tail := rfl
  epoch_zero := fun _ => rfl
  epoch_past := id
  deadline := .inl rfl
  handshake := by cases s.blk.sup <;> simp
  exit_last := by intro h c hc; rw [h] at hc; cases hc

/-- Taking four bytes leaves name[4..7] (43_competition.md R133). -/
theorem nameWith_drop (old : NameBytes) (new : Vector Byte nameCopyLen) :
    (nameWith old new).toList.drop 4 = old.toList.drop 4 := by
  apply List.ext_getElem
  · simp [nameWith]
  · intro i h1 h2
    simp [nameWith]

theorem Block.addFault_nodup (b : Block) (f : GuestMemFault) (h : b.faults.Nodup) : (b.addFault f).faults.Nodup := by
  simp only [Block.addFault_faults]
  split
  · exact h
  · rename_i hn
    exact List.nodup_append.2 ⟨h, by simp, fun a ha b hb e => hn (by simp at hb; exact hb ▸ e ▸ ha)⟩

/-- Arming, as one record update. -/
theorem State.arm_eq (s : State) : s.arm = s.onBlk (fun b =>
    { b with
      deadline := some (s.now + firstTickMs)
      epoch := if s.params.initEpoch = .armTime then s.now else s.blk.epoch }) := by
  cases h : s.params.initEpoch <;> simp [State.arm, State.onBlk, h, Block.setDeadline, Block.setEpoch]

theorem LocalEffect.of_command {s t : State} (h : CommandEffect s t) : LocalEffect s t := by
  have hsup : s.blk.sup = .initialized ∨ s.blk.sup = .uninitialized := by cases s.blk.sup <;> simp
  have h3 : s.blk.sup = .initialized ∨ s.blk.sup = .uninitialized ∨
    (s.blk.deadline ≠ none ∧ initDelayMs ≤ s.now - s.blk.epoch) := hsup.imp_right .inl
  cases h with
  | resultsOnly r1 r2 h =>
    subst h
    constructor <;> simp <;> first | done | exact h3 | (intros; simp_all)
  | output e hi hx h =>
    subst h
    constructor <;> simp <;> first | done | exact h3 | (intros; simp_all)
  | armed h =>
    subst h
    rw [State.arm_eq]
    constructor <;> simp <;> first | done | exact h3 | (intros; simp_all; done) | (split <;> simp_all)
  | faulted d n h =>
    subst h
    constructor <;> simp <;> first | done | exact h3 | (intros; simp_all; done) | skip
    · intro f hf; split
      · exact hf
      · simp [hf]
    · intro hn; simpa using Block.addFault_nodup s.blk ⟨d, s.blk.arg1.toNat, n⟩ hn
  | named hok h =>
    subst h
    unfold State.takeName
    split <;> constructor <;> simp <;>
      first | done | exact nameWith_drop _ _ | exact h3 | (intros; simp_all)
  | synced hok h =>
    subst h
    constructor <;> simp <;> first | done | exact h3 | (intros; simp_all; done) | skip
    intro hm hm2
    exact Memory.writeBytes_wf s.blk.status.toList s.mem s.blk.arg1.toNat ⟨hm, by simpa using hm2⟩
      (by rw [Vector.length_toList]; simpa using State.guestMemOk_le _ _ _ hok)
  | exited h =>
    subst h
    constructor <;> simp; exact h3

/-- Storing the control word first changes nothing the effect speaks of. -/
theorem LocalEffect.of_setX {s t : State} {r : Reg} {v : Word} (h : LocalEffect (s.setX r v) t) : LocalEffect s t where
  peers := by simpa using h.peers
  now := by simpa using h.now
  params := by simpa using h.params
  inputs := by simpa using h.inputs
  resets := by simpa using h.resets
  history := by simpa using h.history
  mem_wf := by simpa using h.mem_wf
  bind := by simpa using h.bind
  sup_stays := by simpa using h.sup_stays
  sync_stays := by simpa using h.sync_stays
  armed_stays := by simpa using h.armed_stays
  faults_stay := by simpa using h.faults_stay
  faults_nodup := by simpa using h.faults_nodup
  name_tail := by simpa using h.name_tail
  epoch_zero := by simpa using h.epoch_zero
  epoch_past := by simpa using h.epoch_past
  deadline := by simpa using h.deadline
  handshake := by simpa using h.handshake
  exit_last := by simpa using h.exit_last

theorem LocalEffect.of_bus {a : BusAccess} {s t : State} (h : busAccess a s = .next t) : LocalEffect s t := by
  rcases busAccess_next _ _ _ h with ⟨v, rfl⟩ | ⟨off, bytes, rfl, h2⟩
  · have h3 : s.blk.sup = .initialized ∨ s.blk.sup = .uninitialized := by cases s.blk.sup <;> simp
    constructor <;> simp <;> first | done | exact h3.imp_right .inl | (intros; simp_all)
  · rcases busWrite_next _ _ _ _ h2 with rfl | ⟨r, v, _, rfl⟩ | ⟨v, h⟩
    · exact .refl _
    · exact .of_setX (.refl _)
    · exact .of_setX (.of_command (exec_next _ _ _ h))

theorem LocalEffect.of_tick {fresh : StatusBytes} {s t : State} (h : timerStep fresh s = .next t) : LocalEffect s t := by
  obtain ⟨hd, rfl⟩ := timerStep_next _ _ _ h
  have hd' : s.blk.deadline ≠ none := by intro hh; simp [State.tickDue, hh] at hd
  rcases State.tick_cases s fresh with ⟨hs, ht, h⟩ | ⟨hs, ht, h⟩ | ⟨hs, h⟩ <;> rw [h]
  · constructor <;> simp [hs]; intros; simp_all
  · have ht' : 1000 ≤ s.now - s.blk.epoch := by simpa [State.thresholdReached] using ht
    constructor <;> simp [hs, State.handshakeTick, hd', ht']; intros; simp_all
  · constructor <;> simp [hs, State.initializedTick]; intros; simp_all

/-- An access or a tick at instance `k`, seen from the whole machine: instance `k` changes as `LocalEffect` says, every
other instance stands as it was (60_exceptions.md R223). -/
theorem atInst_local {s u : State} {k : Nat} {f : State → Answer} (h : atInst k f s = .next u)
    (hl : ∀ s t, f s = .next t → LocalEffect s t) :
    ∃ t, k ≤ s.peers.length ∧ f (s.focus k) = .next t ∧ LocalEffect (s.focus k) t ∧ u = t.focus k ∧
      s.inst? k = some (s.focus k).blk ∧ u.inst? k = some t.blk ∧ ∀ j, j ≠ k → u.inst? j = s.inst? j := by
  obtain ⟨hk, t, ht, rfl⟩ := atInst_next _ _ _ _ h
  have L := hl _ _ ht
  exact ⟨t, hk, ht, L, rfl, by simpa using State.focus_back_self s (s.focus k) k hk rfl,
    State.focus_back_self s t k hk L.peers, fun j hj => State.focus_back_inst s t k j hk hj L.peers⟩

/-- A record is an instance exactly when some number names it. -/
theorem State.mem_blocks_iff (s : State) (b : Block) : b ∈ s.blocks ↔ ∃ k, s.inst? k = some b := by
  simp [State.inst?, List.mem_iff_getElem?]

end Sys2Proof.Machine
end

