-- ==== Sys2Proof/Laws/PerInstr.lean ====
section
/-! SUPPORT. The family EncodingBytes: the four bytes of a command carry its control word, and its two halves make the
word again. One lemma per constructor. -/

namespace Sys2Proof.Laws

/-- Reading back the bytes of a word. -/
theorem wordOfBytes_bytesOfWord (v : Word) : wordOfBytes (bytesOfWord v) = some v := by
  simp only [wordOfBytes, bytesOfWord, Option.some.injEq]
  ext i hi
  simp only [BitVec.getElem_append, BitVec.getElem_extractLsb']
  split
  · rename_i h; simp [BitVec.getLsbD_eq_getElem hi]
  · split
    · rename_i h1 h2
      have : 8 + (i - 8) = i := by omega
      simp [this, BitVec.getLsbD_eq_getElem hi]
    · split
      · rename_i h1 h2 h3
        have : 16 + (i - 8 - 8) = i := by omega
        simp [this, BitVec.getLsbD_eq_getElem hi]
      · rename_i h1 h2 h3
        have : 24 + (i - 8 - 8 - 8) = i := by omega
        simp [this, BitVec.getLsbD_eq_getElem hi]

/-- A word is its two halves. -/
theorem controlWord_split (v : Word) : controlWord (moduleOf v) (functionOf v) = v := by
  simp only [controlWord, moduleOf, functionOf]
  ext i hi
  simp only [BitVec.getElem_append, BitVec.getElem_extractLsb']
  split
  · simp [BitVec.getLsbD_eq_getElem hi]
  · have : 16 + (i - 16) = i := by omega
    simp [this, BitVec.getLsbD_eq_getElem hi]

/-- The command's bytes carry its word, and the word is its module and function. -/
def EncodingBytes.Statement (i : Instr) : Prop :=
  wordOfBytes (encodeBytes i) = some (encode i) ∧
    controlWord (moduleOf (encode i)) (functionOf (encode i)) = encode i

/-- It holds of any term, by its word. -/
theorem EncodingBytes.of_word (i : Instr) : EncodingBytes.Statement i :=
  ⟨wordOfBytes_bytesOfWord (encode i), controlWord_split (encode i)⟩

theorem EncodingBytes.serInit : EncodingBytes.Statement .serInit := EncodingBytes.of_word _
theorem EncodingBytes.serShutdown : EncodingBytes.Statement .serShutdown := EncodingBytes.of_word _
theorem EncodingBytes.serPutc : EncodingBytes.Statement .serPutc := EncodingBytes.of_word _
theorem EncodingBytes.gpioAdcinit : EncodingBytes.Statement .gpioAdcinit := EncodingBytes.of_word _
theorem EncodingBytes.gpioSetdir : EncodingBytes.Statement .gpioSetdir := EncodingBytes.of_word _
theorem EncodingBytes.gpioGetin : EncodingBytes.Statement .gpioGetin := EncodingBytes.of_word _
theorem EncodingBytes.gpioGetout : EncodingBytes.Statement .gpioGetout := EncodingBytes.of_word _
theorem EncodingBytes.gpioSetout : EncodingBytes.Statement .gpioSetout := EncodingBytes.of_word _
theorem EncodingBytes.gpioSetimask : EncodingBytes.Statement .gpioSetimask := EncodingBytes.of_word _
theorem EncodingBytes.motGet : EncodingBytes.Statement .motGet := EncodingBytes.of_word _
theorem EncodingBytes.motSet : EncodingBytes.Statement .motSet := EncodingBytes.of_word _
theorem EncodingBytes.motStopall : EncodingBytes.Statement .motStopall := EncodingBytes.of_word _
theorem EncodingBytes.compInit : EncodingBytes.Statement .compInit := EncodingBytes.of_word _
theorem EncodingBytes.compStandalone : EncodingBytes.Statement .compStandalone := EncodingBytes.of_word _
theorem EncodingBytes.compSetname : EncodingBytes.Statement .compSetname := EncodingBytes.of_word _
theorem EncodingBytes.compGetstatus : EncodingBytes.Statement .compGetstatus := EncodingBytes.of_word _
theorem EncodingBytes.sysExit : EncodingBytes.Statement .sysExit := EncodingBytes.of_word _
theorem EncodingBytes.sysBreak : EncodingBytes.Statement .sysBreak := EncodingBytes.of_word _
theorem EncodingBytes.unknown (m f : Half) : EncodingBytes.Statement (.unknown m f) := EncodingBytes.of_word _

end Sys2Proof.Laws
end

