-- ==== Sys2Proof/Laws/Runs.lean ====
section
/-! SUPPORT. One step of a run, said once: nothing moved, or one event ran; and what an event leaves of an instance it is not
at. -/

namespace Sys2Proof.Machine

/-- A tick is enabled at an instance that exists, is armed and is due, while the run is not over. -/
theorem State.mayTick_iff (s : State) (k : Nat) :
    s.mayTick k = true ↔ s.over = false ∧ ∃ b d, s.inst? k = some b ∧ b.deadline = some d ∧ d ≤ s.now := by
  have due : (s.focus k).tickDue = true ↔ ∃ d, (s.focus k).blk.deadline = some d ∧ d ≤ s.now := by
    cases h : (s.focus k).blk.deadline <;> simp [State.tickDue, h]
  simp only [State.mayTick, Bool.and_eq_true, Bool.not_eq_true', decide_eq_true_eq, due]
  constructor
  · rintro ⟨⟨ho, hk⟩, d, hd, hn⟩
    exact ⟨ho, _, d, by simpa using State.focus_back_self s (s.focus k) k hk rfl, hd, hn⟩
  · rintro ⟨ho, b, d, hb, hd, hn⟩
    exact ⟨⟨ho, s.inst?_le k b hb⟩, d, by rw [s.focus_blk k b hb]; exact hd, hn⟩

/-- Every state of a run has a step: the run is not over. -/
theorem IsRun.not_over {agent : Nat → Option Event} {run : Nat → State} (h : IsRun agent run) (i : Nat) :
    (run i).over = false := by
  simpa using (step_next _ _ (h i)).1

/-- Where no agent moves, the state stays, its queue empty. -/
theorem IsRun.idle {agent : Nat → Option Event} {run : Nat → State} (h : IsRun agent run) {i : Nat}
    (ha : agent i = none) : run (i + 1) = (run i).setInputs [] := by
  have hi := h i
  rcases (step_next _ _ hi).2 with ⟨_, e⟩ | ⟨e, rest, hq, _⟩
  · simpa [ha] using e
  · simp [ha] at hq

/-- Where an agent moves, its event is the step. -/
theorem IsRun.event {agent : Nat → Option Event} {run : Nat → State} (h : IsRun agent run) {i : Nat} {e : Event}
    (ha : agent i = some e) : runEvent e ((run i).setInputs []) = .next (run (i + 1)) := by
  have hi := h i
  rw [ha] at hi
  rw [step_event _ e [] (by simpa using h.not_over i) rfl] at hi
  exact hi

/-- An event that is neither a reset nor at instance `k` leaves that instance as it was (60_exceptions.md R223). -/
theorem runEvent_inst {e : Event} {s t : State} (h : runEvent e s = .next t) (k : Nat) (hr : e ≠ .reset)
    (ha : ∀ a, e ≠ .access k a) (ht : ∀ fresh, e ≠ .tick k fresh) : t.inst? k = s.inst? k := by
  cases e with
  | access j a =>
    obtain ⟨_, _, _, _, _, _, _, other⟩ := atInst_local h fun _ _ => LocalEffect.of_bus
    exact other k fun hjk => ha a (hjk ▸ rfl)
  | tick j fresh =>
    obtain ⟨_, _, _, _, _, _, _, other⟩ := atInst_local h fun _ _ => LocalEffect.of_tick
    exact other k fun hjk => ht fresh (hjk ▸ rfl)
  | advance ms => obtain ⟨_, rfl⟩ := clockStep_next _ _ _ h; rfl
  | reset => exact absurd rfl hr
  | guestStore addr bytes => obtain ⟨_, rfl⟩ := guestStoreStep_next _ _ _ _ h; rfl

/-- Only the Clock agent moves virtual time (60_exceptions.md R200, R201). -/
theorem runEvent_now {e : Event} {s t : State} (h : runEvent e s = .next t) :
    t.now = match e with | .advance ms => s.now + ms | _ => s.now := by
  cases e with
  | access j a =>
    obtain ⟨_, _, _, L, rfl, _⟩ := atInst_local h fun _ _ => LocalEffect.of_bus
    simp [L.now]
  | tick j fresh =>
    obtain ⟨_, _, _, L, rfl, _⟩ := atInst_local h fun _ _ => LocalEffect.of_tick
    simp [L.now]
  | advance ms => obtain ⟨_, rfl⟩ := clockStep_next _ _ _ h; rfl
  | reset => simp only [runEvent, Host.Outcome.next.injEq] at h; exact h ▸ rfl
  | guestStore addr bytes => obtain ⟨_, rfl⟩ := guestStoreStep_next _ _ _ _ h; rfl

end Sys2Proof.Machine
end

