-- ==== Sys2Proof/Tests/Slice0.lean ====
section
/-! SUPPORT. The model's own tests. Every expected value is from spec/95_test_vectors.md (the vector's id stands in the
comment) or read by hand off the rule named there. The board is the one those vectors assume: guest RAM at
[0x20000000, 0x20010000), BASE outside it. At the end: a named witness for the hypotheses of each obligation. -/

namespace Sys2Proof.Machine.Tests

/-! ### The board -/

/-- The value of `f` in a next state. -/
def nextOf {α : Type} (f : State → α) : Answer → Option α
  | .next t => some (f t)
  | .fault _ => none
  | .refused _ => none

/-- The name of a stop. -/
def faultOf : Answer → Option Fault
  | .next _ => none
  | .fault r => some r
  | .refused _ => none

/-- The name of a refusal. -/
def refusalOf : Answer → Option Refusal
  | .next _ => none
  | .fault _ => none
  | .refused r => some r

/-- An instance after reset with name bytes 6E and status bytes 0, 1, ..., 30 (V-C4). -/
def testBlock (base irqLine : Nat) : Block :=
  { Block.afterReset ⟨base, irqLine⟩ 0 0 with
    name := Vector.replicate 8 0x6E
    status := Vector.ofFn (fun i => BitVec.ofNat 8 i.val) }

/-- The machine after reset on the board of 95_test_vectors.md. -/
def board : State :=
  { State.reset with
    blk := testBlock 0x40000000 5
    params := { Params.hardware with grants := [.region 0x20000000 0x10000] } }

/-- The board with argument registers (R77, ARGS). -/
def argBoard (a b c : Word) : State := { board with blk := { board.blk with arg1 := a, arg2 := b, arg3 := c } }

/-- The board with result1 = 127, as after MOT.GET. -/
def resBoard : State := { board with blk := { board.blk with result1 := 127 } }

/-- The board at a time, with the timer due at `d`. -/
def armedBoard (t d : Nat) : State := { board with now := t, blk := { board.blk with deadline := some d } }

/-- The same after the handshake. -/
def initBoard (t d : Nat) : State := (armedBoard t d).becomeInitialized

/-- Two instances, the second on line 6. -/
def twoBoards : State := { board with peers := [testBlock 0x40001000 6] }

/-- A queue of steps on a state. -/
def queue (s : State) (q : List Event) : State := s.setInputs q

/-- A status draw. -/
def draw (b : Byte) : StatusBytes := Vector.replicate 31 b

/-! ### Well-formedness: the one check there is, and a term that fails it -/

theorem test_wf_refuses_assigned_serial : (Instr.unknown 0 0).wf = false := by decide
theorem test_wf_refuses_assigned_gpio : (Instr.unknown 3 5).wf = false := by decide
theorem test_wf_refuses_assigned_motor : (Instr.unknown 4 2).wf = false := by decide
theorem test_wf_refuses_assigned_competition : (Instr.unknown 5 3).wf = false := by decide
theorem test_wf_refuses_assigned_system : (Instr.unknown 6 1).wf = false := by decide
theorem test_wf_accepts_unassigned :
    (Instr.unknown 1 0).wf = true ∧ (Instr.unknown 6 2).wf = true ∧ (Instr.unknown 256 0).wf = true ∧
    Instr.serInit.wf = true := by decide

/-! ### Decoding: each constructor from its word, bit by bit: module in 31:16, function in 15:0 (R70, R73) -/

theorem test_decode_serInit : decodeWord 0b0000000000000000_0000000000000000 = .serInit := by decide
theorem test_decode_serShutdown : decodeWord 0b0000000000000000_0000000000000001 = .serShutdown := by decide
theorem test_decode_serPutc : decodeWord 0b0000000000000000_0000000000000010 = .serPutc := by decide
theorem test_decode_gpioAdcinit : decodeWord 0b0000000000000011_0000000000000000 = .gpioAdcinit := by decide
theorem test_decode_gpioSetdir : decodeWord 0b0000000000000011_0000000000000001 = .gpioSetdir := by decide
theorem test_decode_gpioGetin : decodeWord 0b0000000000000011_0000000000000010 = .gpioGetin := by decide
theorem test_decode_gpioGetout : decodeWord 0b0000000000000011_0000000000000011 = .gpioGetout := by decide
theorem test_decode_gpioSetout : decodeWord 0b0000000000000011_0000000000000100 = .gpioSetout := by decide
theorem test_decode_gpioSetimask : decodeWord 0b0000000000000011_0000000000000101 = .gpioSetimask := by decide
theorem test_decode_motGet : decodeWord 0b0000000000000100_0000000000000000 = .motGet := by decide
theorem test_decode_motSet : decodeWord 0b0000000000000100_0000000000000001 = .motSet := by decide
theorem test_decode_motStopall : decodeWord 0b0000000000000100_0000000000000010 = .motStopall := by decide
theorem test_decode_compInit : decodeWord 0b0000000000000101_0000000000000000 = .compInit := by decide
theorem test_decode_compStandalone : decodeWord 0b0000000000000101_0000000000000001 = .compStandalone := by decide
theorem test_decode_compSetname : decodeWord 0b0000000000000101_0000000000000010 = .compSetname := by decide
theorem test_decode_compGetstatus : decodeWord 0b0000000000000101_0000000000000011 = .compGetstatus := by decide
theorem test_decode_sysExit : decodeWord 0b0000000000000110_0000000000000000 = .sysExit := by decide
theorem test_decode_sysBreak : decodeWord 0b0000000000000110_0000000000000001 = .sysBreak := by decide
/-- V-E2 to V-E8, V-E10, V-E11. -/
theorem test_decode_unknown :
    decodeWord 0x00030006 = .unknown 3 6 ∧ decodeWord 0x00010000 = .unknown 1 0 ∧
    decodeWord 0xFFFFFFFF = .unknown 0xFFFF 0xFFFF ∧ decodeWord 0x00000003 = .unknown 0 3 ∧
    decodeWord 0x00060002 = .unknown 6 2 ∧ decodeWord 0x00040003 = .unknown 4 3 ∧
    decodeWord 0x00050004 = .unknown 5 4 ∧ decodeWord 0x01000000 = .unknown 256 0 ∧
    decodeWord 0x00070000 = .unknown 7 0 := by decide
/-- The bytes of a control write, lowest address first (R46): V-E1. -/
theorem test_decode_bytes : (decode [0x03, 0x00, 0x05, 0x00]).toOption = some .compGetstatus := by decide
/-- A half-word is no command (R43). -/
theorem test_decode_rejects_short : (decode [0x03, 0x00]).toOption = none := by decide
theorem test_decode_table_word : decodeTableWord 32 0x00050003 = some .compGetstatus := by decide

/-! ### The commands, one step each -/

/-- V-S1. -/
theorem test_serInit_trace : nextOf (fun t => t.history) (exec .serInit (argBoard 5 12000000 1)) =
    some [⟨0, .trace (.serialInit 5 12000000 1)⟩] := by decide
/-- V-S6. -/
theorem test_serInit_clears : nextOf (fun t => t.blk.result1) (exec .serInit resBoard) = some 0 := by decide
/-- L1-3 and V-S5: the text. -/
theorem test_serInit_text : serialInitText 5 12000000 1 = "UART 5 to 12000000/1" ∧
    serialInitText 0xFFFFFFFF 0xFFFFFFFF 0xFFFFFFFF = "UART 4294967295 to 4294967295/4294967295" := by decide
/-- V-S4. -/
theorem test_serShutdown : nextOf (fun t => t.history) (exec .serShutdown board) =
    some [⟨0, .trace (.serialShutdown 0 0 0)⟩] := by decide
/-- V-S2. -/
theorem test_serPutc : nextOf (fun t => t.history) (exec .serPutc (argBoard 0 0xFFFFFF41 0)) =
    some [⟨0, .serialChar 0x41⟩] := by decide
/-- V-S3. -/
theorem test_serPutc_zero : nextOf (fun t => t.history) (exec .serPutc board) = some [⟨0, .serialChar 0x00⟩] := by decide
/-- V-G6. -/
theorem test_gpioAdcinit : nextOf (fun t => t.history) (exec .gpioAdcinit board) =
    some [⟨0, .trace (.adcInit 0 0 0)⟩] := by decide
/-- V-G1: the mode is whatever GPIO_MODE_OF(1) is. -/
theorem test_gpioSetdir : nextOf (fun t => t.history) (exec .gpioSetdir (argBoard 3 1 0)) =
    some [⟨0, .trace (.gpioSetDir 3 1 0 (Config.gpioModeOf 1))⟩] := rfl
/-- V-G2. -/
theorem test_gpioGetin : nextOf (fun t => (t.blk.result1, t.blk.result2, t.history)) (exec .gpioGetin resBoard) =
    some (0, 0, []) := by decide
/-- V-G3. -/
theorem test_gpioGetout : nextOf (fun t => (t.blk.result1, t.blk.result2, t.history)) (exec .gpioGetout resBoard) =
    some (0, 0, []) := by decide
/-- V-G4. -/
theorem test_gpioSetout : nextOf (fun t => t.history) (exec .gpioSetout (argBoard 2 1 0)) =
    some [⟨0, .trace (.gpioSetOutput 2 1 0)⟩] := by decide
/-- V-G5, its first step. -/
theorem test_gpioSetimask : nextOf (fun t => (t.history, t.blk.deadline)) (exec .gpioSetimask (initBoard 1001 1011)) =
    some ([⟨1001, .trace (.gpioSetIntMask 0 0 0)⟩], some 1011) := by decide
/-- V-M2. -/
theorem test_motGet : nextOf (fun t => (t.blk.result1, t.blk.result2))
    (exec .motGet (argBoard 0xFFFFFFFF 0xFFFFFFFF 0xFFFFFFFF)) = some (0x7F, 0) := by decide
/-- V-M3. -/
theorem test_motSet : nextOf (fun t => t.history) (exec .motSet (argBoard 1 50 0)) =
    some [⟨0, .trace (.motorSet 1 50 0)⟩] := by decide
/-- V-M6. -/
theorem test_motSet_clears : nextOf (fun t => t.blk.result1) (exec .motSet resBoard) = some 0 := by decide
/-- V-M4. -/
theorem test_motStopall : nextOf (fun t => (t.history, t.blk.result1)) (exec .motStopall resBoard) =
    some ([⟨0, .trace (.motorStopAll 0 0 0)⟩], 0) := by decide
/-- V-C1. -/
theorem test_compInit : nextOf (fun t => (t.blk.deadline, t.history)) (exec .compInit board) = some (some 1, []) := by decide
/-- V-C9, the second init at now 5. -/
theorem test_compInit_restarts : nextOf (fun t => t.blk.deadline) (exec .compInit (armedBoard 5 11)) =
    some (some 6) := by decide
/-- V-C10. -/
theorem test_compInit_refused : refusalOf (exec .compInit
    { armedBoard 5 11 with params := { board.params with reinitPolicy := .refuse } }) = some .reinitWhileArmed := by decide
/-- V-C8. -/
theorem test_compStandalone : nextOf (fun t => t.history) (exec .compStandalone board) =
    some [⟨0, .trace (.compStandalone 0 0 0)⟩] := by decide
/-- The board with the guest bytes of L1-6 at 0x20000000. -/
def nameBoard : State :=
  (argBoard 0x20000000 0 0).setMem (Memory.writeBytes [] 0x20000000 [0x41, 0x42, 0x43, 0x44, 0x31, 0x32, 0x33, 0x34])
/-- V-C2. -/
theorem test_compSetname : nextOf (fun t => (t.blk.name.toList, t.history)) (exec .compSetname nameBoard) =
    some ([0x41, 0x42, 0x43, 0x44, 0x6E, 0x6E, 0x6E, 0x6E],
      [⟨0, .guestRead 0x20000000 [0x41, 0x42, 0x43, 0x44]⟩,
       ⟨0, .trace (.setName #v[0x41, 0x42, 0x43, 0x44, 0x6E, 0x6E, 0x6E, 0x6E])⟩]) := by decide
/-- V-C6: the range crosses 2^32. -/
theorem test_compSetname_fault : nextOf (fun t => (t.blk.faults, t.blk.name, t.history))
    (exec .compSetname (argBoard 0xFFFFFFFE 0 0)) =
    some ([⟨.read, 0xFFFFFFFE, 4⟩], Vector.replicate 8 0x6E, []) := by decide
/-- V-C4: guest byte 0x20000200 + i is i, and 0x2000021F is untouched. -/
theorem test_compGetstatus : nextOf (fun t => (t.mem, t.blk.firstSyncDone)) (exec .compGetstatus (argBoard 0x20000200 0 0)) =
    some ((List.range 31).map (fun i => (0x20000200 + i, BitVec.ofNat 8 i)), true) := by decide
/-- V-C7: over the block's own window. -/
theorem test_compGetstatus_over_window : nextOf (fun t => (t.blk.faults, t.blk.firstSyncDone, t.mem))
    (exec .compGetstatus (argBoard 0x40000000 0 0)) = some ([⟨.write, 0x40000000, 31⟩], false, []) := by decide
/-- V-C5 and V-C12: outside the RAM, and past its end. -/
theorem test_guestMemOk_edges :
    board.guestMemOk 0x1FFFFFF0 31 = false ∧ board.guestMemOk 0x2000FFF0 31 = false ∧
    board.guestMemOk 0x2000FFFC 4 = true := by decide
/-- V-Y2. -/
theorem test_sysExit : nextOf (fun t => (t.history, t.blk.halted)) (exec .sysExit (argBoard 0xFFFFFFFF 0 0)) =
    some ([⟨0, .exit 0xFFFFFFFF⟩], some 0xFFFFFFFF) := by decide
/-- V-Y3. -/
theorem test_sysBreak : nextOf (fun t => (t.blk.result1, t.history)) (exec .sysBreak resBoard) = some (0, []) := by decide
/-- V-U2. -/
theorem test_unknown_clears : nextOf (fun t => (t.blk.result1, t.blk.result2)) (exec (.unknown 9 0) resBoard) =
    some (0, 0) := by decide
/-- V-U3. -/
theorem test_unknown_trace : nextOf (fun t => (t.history, t.blk.arg1, t.blk.arg2, t.blk.arg3))
    (exec (.unknown 0x1234 0x5678) (argBoard 1 2 3)) =
    some ([⟨0, .trace (.unknown 0x1234 0x5678 1 2 3)⟩], 1, 2, 3) := by decide

/-! ### The bus -/

/-- V-B1. -/
theorem test_read_register : (argBoard 0x12345678 0 0).busValue 0x04 4 = [0x78, 0x56, 0x34, 0x12] := by decide
/-- V-B2, V-B3, V-B4, V-B7. -/
theorem test_malformed_reads :
    (argBoard 0x12345678 0 0).busValue 0x04 1 = [0] ∧ (argBoard 0x12345678 0 0).busValue 0x06 2 = [0, 0] ∧
    (argBoard 0x12345678 0 0).busValue 0x06 4 = [0, 0, 0, 0] ∧ board.busValue 0xBFC 4 = [0, 0, 0, 0] := by decide
/-- V-B10. -/
theorem test_write_argument : nextOf (fun t => t.blk.arg1) (busWrite 0x04 [0x78, 0x56, 0x34, 0x12] board) =
    some 0x12345678 := by decide
/-- V-B6: one byte dispatches nothing. -/
theorem test_byte_write : nextOf (fun t => (t.blk.control, t.history)) (busWrite 0x00 [0x03] board) = some (0, []) := by decide
/-- V-B9. -/
theorem test_result_write : nextOf (fun t => t.blk.result2) (busWrite 0x14 [0xEF, 0xBE, 0xAD, 0xDE] board) =
    some 0 := by decide
/-- V-B11. -/
theorem test_control_write : nextOf (fun t => (t.history, t.busValue 0x00 4))
    (busWrite 0x00 [0x34, 0x12, 0xCD, 0xAB] board) =
    some ([⟨0, .trace (.unknown 0xABCD 0x1234 0 0 0)⟩], [0x34, 0x12, 0xCD, 0xAB]) := by decide
/-- P2: MOT.GET by a step, and P2's word as the host places it. -/
theorem test_step_runs_motGet : nextOf (fun t => (t.blk.control, t.blk.result1)) (step (board.withFetchWord 32 0x00040000)) =
    some (0x00040000, 0x7F) := by decide
/-- A command at the second instance leaves the first (R223). -/
theorem test_second_instance : nextOf (fun t => (t.blk.result1, t.peers.map (fun p => p.result1)))
    (step (queue twoBoards [.access 1 (.write 0 [0x00, 0x00, 0x04, 0x00])])) = some (0, [127]) := by decide

/-! ### Ticks and time -/

/-- V-T3 and V-T4: the threshold is inclusive. -/
theorem test_handshake_at_1000 : nextOf (fun t => (t.blk.sup, t.blk.deadline, t.history)) (timerStep (draw 7) (armedBoard 1000 1000)) =
    some (.initialized, some 1010, [⟨1000, .irq 5⟩]) := by decide
/-- V-T4 and V-T9: a tick at 999 only re-arms. -/
theorem test_tick_at_999 : nextOf (fun t => (t.blk.sup, t.blk.deadline, t.history, t.blk.status.toList.take 2))
    (timerStep (draw 7) (armedBoard 999 999)) = some (.uninitialized, some 1009, [], [0, 1]) := by decide
/-- V-T6: under arm_time a COMP.INIT at 2000 moves the threshold to 3000. -/
theorem test_arm_time_epoch : nextOf (fun t => (t.blk.epoch, t.blk.deadline))
    (exec .compInit { board with now := 2000, params := { board.params with initEpoch := .armTime } }) =
    some (2000, some 2001) := by decide
/-- V-M5 and V-C13: a later tick sets the results to 1 and 0 and takes the draw. -/
theorem test_initialized_tick : nextOf (fun t => (t.blk.result1, t.blk.result2, t.blk.status.toList.take 1))
    (timerStep (draw 7) (initBoard 3001 3001)) = some (1, 0, [7]) := by decide
/-- V-T8: without COMP.INIT no tick. -/
theorem test_no_tick_unarmed : faultOf (timerStep (draw 7) { board with now := 5000 }) = some .tickNotDue := by decide
/-- V-T7: without TIMER_EXACT the tick due at 1001 may run at 1004, and the next is due at 1014. -/
theorem test_late_tick : nextOf (fun t => t.blk.deadline)
    (timerStep (draw 7) { armedBoard 1004 1001 with params := { board.params with timerExact := false } }) =
    some (some 1014) := by decide
/-- R201: under TIMER_EXACT time stops at the deadline. -/
theorem test_clock_stops : faultOf (clockStep 11 (armedBoard 1001 1011)) = some .clockBlocked ∧
    nextOf (fun t => t.now) (clockStep 10 (armedBoard 1001 1011)) = some 1011 := by decide
/-- V-Y4: after SYS.EXIT no tick. -/
theorem test_no_step_after_exit : faultOf (step (queue { initBoard 1011 1011 with
    blk := { (initBoard 1011 1011).blk with halted := some 0 } } [.tick 0 (draw 7)])) = some .runOver := by decide
/-- V-C9: `ADV 5` after COMP.INIT at 0 is an advance to 1, the tick there, and an advance to 5. -/
theorem test_adv_line : (Line.adv 5 [draw 7, draw 8]).events 0 (some 1) =
    [.advance 1, .tick 0 (draw 7), .advance 4] := by decide
/-- R300, R301: a reset disarms the timer and keeps time and guest memory. -/
theorem test_reset_step : nextOf (fun t => (t.blk.deadline, t.blk.sup, t.now, t.mem.length))
    (step (queue (({ nameBoard with now := 9 } : State).arm) [.reset])) = some (none, .uninitialized, 9, 8) := by decide
/-- R135 and R27: the second joystick's axes follow 3 + 14 bytes. -/
theorem test_marshal_offsets : (deserialize (testBlock 0 0).status).joy1.axis = #v[17, 18, 19, 20, 21, 22] ∧
    (deserialize (testBlock 0 0).status).joy0.buttons = #v[9, 10] := by decide
/-- The GMEM line of L1-6, as bytes in guest memory. -/
theorem test_guest_store : nextOf (fun t => t.mem) (guestStoreStep 0x20000000 [0x41, 0x42] board) =
    some [(0x20000000, 0x41), (0x20000001, 0x42)] := by decide

/-! ### Witnesses: states and operands that meet the hypotheses of each obligation that has any -/

/-- A control write of a word as the next access of an instance. -/
def writing (s : State) (k : Nat) (bytes : List Byte) : State := queue s [.access k (.write 0 bytes)]

/-- The board as an exact-time run leaves it: an interrupt seen, a byte stored, the timer due. -/
def runBoard : State := { initBoard 1011 1011 with
  history := [⟨1001, .irq 5⟩]
  mem := [(0x20000000, 0x41), (0x20000004, 0x42)] }

/-- The same run over, by SYS.EXIT 7. -/
def exitBoard : State := { runBoard with
  blk := { runBoard.blk with halted := some 7 }
  history := runBoard.history ++ [⟨1011, .exit 7⟩] }

theorem witness_runBoard_inv : runBoard.Inv where
  mem_wf := by decide
  history_past := by decide
  history_ordered := by decide
  blocks_inv b hb := by
    obtain rfl : b = runBoard.blk := by simpa [State.blocks, runBoard, initBoard, armedBoard, board, State.reset,
      State.becomeInitialized, State.onBlk] using hb
    exact ⟨by decide, by decide, fun _ d h => by cases h; decide, fun d h => by cases h; decide, by decide, by decide,
      by decide, fun c h => nomatch h⟩

theorem witness_exitBoard_inv : exitBoard.Inv where
  mem_wf := by decide
  history_past := by decide
  history_ordered := by decide
  blocks_inv b hb := by
    obtain rfl : b = exitBoard.blk := by simpa [State.blocks, exitBoard, runBoard, initBoard, armedBoard, board,
      State.reset, State.becomeInitialized, State.onBlk] using hb
    exact ⟨by decide, by decide, fun _ d h => by cases h; decide, fun d h => by cases h; decide, by decide, by decide,
      by decide, fun c h => by cases h; decide⟩

theorem witness_DecodeOfEncodeIsTheCommand : Instr.sysBreak.wf = true ∧ (Instr.unknown 0xFFFF 0xFFFF).wf = true := by
  decide

theorem witness_EveryWordIsOneCommand :
    Instr.motGet.wf = true ∧ encode .motGet = 0x00040000 ∧
    (Instr.unknown 7 0).wf = true ∧ encode (.unknown 7 0) = 0x00070000 := by decide

theorem witness_StepRunsTheDecodedCommand :
    (writing twoBoards 1 [0, 0, 4, 0]).over = false ∧ 1 ≤ (writing twoBoards 1 [0, 0, 4, 0]).peers.length ∧
    (writing twoBoards 1 [0, 0, 4, 0]).inputs = [.access 1 (.write 0x00 [0, 0, 4, 0])] ∧
    wordOfBytes [0, 0, 4, 0] = some 0x00040000 ∧ (decode [0, 0, 4, 0]).toOption = some .motGet := by decide

theorem witness_FetchWordIsTheNextCommand : board.over = false ∧ 0xFFFFFFFF < 2 ^ 32 := by decide

/-- One wrong size, one wrong offset, the last offset of the window; reads and writes. -/
theorem witness_MalformedAccessesAreAbsorbed :
    board.over = false ∧ 0 ≤ board.peers.length ∧ 0xBFF < 0xC00 ∧
    (queue board [.access 0 (.read 0xBFF 4)]).inputs = [.access 0 (.read 0xBFF 4)] ∧ (4 ≠ 4 ∨ 0xBFF % 4 ≠ 0) ∧
    (queue board [.access 0 (.read 0 1)]).inputs = [.access 0 (.read 0 1)] ∧ (1 ≠ 4 ∨ 0 % 4 ≠ 0) ∧
    (queue board [.access 0 (.write 6 [1, 2, 3, 4])]).inputs = [.access 0 (.write 6 [1, 2, 3, 4])] ∧
    (([1, 2, 3, 4] : List Byte).length ≠ 4 ∨ 6 % 4 ≠ 0) ∧ (([1] : List Byte).length ≠ 4 ∨ 0 % 4 ≠ 0) := by decide

/-- Both ends of the unused offsets. -/
theorem witness_UnusedOffsetsReadZero :
    board.over = false ∧ 0 ≤ board.peers.length ∧
    (0x18 ≤ 0x18 ∧ 0x18 < 0xC00 ∧ 0x18 % 4 = 0) ∧ (0x18 ≤ 0xBFC ∧ 0xBFC < 0xC00 ∧ 0xBFC % 4 = 0) ∧
    (queue board [.access 0 (.read 0xBFC 4)]).inputs = [.access 0 (.read 0xBFC 4)] ∧
    (queue board [.access 0 (.write 0x18 [1, 2, 3, 4])]).inputs = [.access 0 (.write 0x18 [1, 2, 3, 4])] ∧
    ([1, 2, 3, 4] : List Byte).length = 4 := by decide

/-- Both ends of the register file, at the second instance too; the six offsets differ, so no clause meets another. -/
theorem witness_RegisterReadsReturnTheRegister :
    (queue twoBoards [.access 1 (.read 0x14 4)]).over = false ∧
    ((queue twoBoards [.access 1 (.read 0x14 4)]).inst? 1).map (fun b => b.result2) = some 0 ∧
    ((queue twoBoards [.access 0 (.read 0x00 4)]).inst? 0).map (fun b => b.control) = some 0 ∧
    [0x00, 0x04, 0x08, 0x0C, 0x10, 0x14].Nodup := by decide

theorem witness_BusWriteDecodesByOffset :
    (([1, 2] : List Byte).length ≠ 4 ∨ 0x04 % 4 ≠ 0) ∧ (([1, 2, 3, 4] : List Byte).length ≠ 4 ∨ 0x16 % 4 ≠ 0) ∧
    wordOfBytes [0x78, 0x56, 0x34, 0x12] = some 0x12345678 ∧ 0x18 ≠ 0x14 := by decide

theorem witness_ReadsAndArgumentWritesAreIdempotent :
    nextOf (fun t => t.blk.arg3) (busWrite 0x0C [9, 0, 0, 0] board) = some 9 ∧
    nextOf (fun t => t.blk.arg1) (busWrite 0x04 [9, 0, 0, 0] board) = some 9 ∧
    nextOf (fun t => t.blk.arg2) (busWrite 0x08 [9, 0, 0, 0] board) = some 9 ∧
    wordOfBytes [0, 0, 0, 0] = some 0 ∧ board.blk.control = 0 := by decide

theorem witness_AccessOutsideTheWindowStops :
    board.over = false ∧ 0 ≤ board.peers.length ∧ 0xC00 ≤ 0xC00 ∧
    (queue board [.access 0 (.read 0xC00 4)]).inputs = [.access 0 (.read 0xC00 4)] ∧
    (queue board [.access 0 (.write 0xC00 [1])]).inputs = [.access 0 (.write 0xC00 [1])] := by decide

/-- V-M5: MOT.GET and then a tick, after the handshake and at the threshold. -/
theorem witness_MotGetAnswers127 :
    (∃ t u, exec .motGet (initBoard 1011 1011) = .next t ∧ timerStep (draw 7) t = .next u) ∧
    (initBoard 1011 1011).blk.sup = .initialized ∧
    (∃ t u, exec .motGet (armedBoard 1000 1000) = .next t ∧ timerStep (draw 7) t = .next u) ∧
    (armedBoard 1000 1000).blk.sup = .uninitialized ∧
    1000 ≤ (armedBoard 1000 1000).now - (armedBoard 1000 1000).blk.epoch :=
  ⟨⟨_, _, rfl, rfl⟩, rfl, ⟨_, _, rfl, rfl⟩, rfl, by decide⟩

/-- V-M3: MOT.SET has a next state. -/
theorem witness_MotSetAndStopallOnlyLog : ∃ t, exec .motSet board = .next t := ⟨_, rfl⟩

theorem witness_CompInitArmsTheTimer :
    board.blk.deadline = none ∧
    (armedBoard 5 11).blk.deadline = some 11 ∧ (armedBoard 5 11).params.reinitPolicy = .restart ∧
    ({ armedBoard 5 11 with params := { board.params with reinitPolicy := .refuse } } : State).blk.deadline ≠ none ∧
    (initBoard 3000 3001).blk.sup = .initialized := by decide

/-- V-C13: COMP.INIT after the handshake has a next state. -/
theorem witness_CompInitArmsTheTimer_initialized : ∃ t, exec .compInit (initBoard 3000 3001) = .next t := ⟨_, rfl⟩

theorem witness_CompInitWhileArmedFollowsThePolicy :
    (armedBoard 5 11).blk.deadline = some 11 ∧ (armedBoard 5 11).params.reinitPolicy = .restart ∧
    ({ armedBoard 5 11 with params := { board.params with reinitPolicy := .refuse } } : State).blk.deadline = some 11 ∧
    ({ armedBoard 5 11 with params := { board.params with reinitPolicy := .refuse } } : State).params.reinitPolicy =
      .refuse := by decide

/-- The last admitted address, the next one, and a range past 2^32. -/
theorem witness_CompSetnameCopiesFourBytes :
    (argBoard 0x2000FFFC 0 0).guestMemOk (argBoard 0x2000FFFC 0 0).blk.arg1.toNat 4 = true ∧
    (argBoard 0x2000FFFD 0 0).guestMemOk (argBoard 0x2000FFFD 0 0).blk.arg1.toNat 4 = false ∧
    (argBoard 0xFFFFFFFE 0 0).guestMemOk (argBoard 0xFFFFFFFE 0 0).blk.arg1.toNat 4 = false := by decide

theorem witness_CompGetstatusStoresTheSnapshot :
    (argBoard 0x2000FFE1 0 0).guestMemOk (argBoard 0x2000FFE1 0 0).blk.arg1.toNat 31 = true ∧
    (argBoard 0x2000FFE2 0 0).guestMemOk (argBoard 0x2000FFE2 0 0).blk.arg1.toNat 31 = false := by decide

theorem witness_EveryCommandClearsTheResults :
    (∃ t, exec .motGet resBoard = .next t) ∧ ∃ t, exec (.unknown 9 0) resBoard = .next t := ⟨⟨_, rfl⟩, _, rfl⟩

theorem witness_CommandsWriteOnlyTheirOwnState :
    (∃ t, exec .compGetstatus nameBoard = .next t) ∧ (∃ t, exec .compSetname nameBoard = .next t) ∧
    (∃ t, exec .sysExit board = .next t) ∧ ∃ t, exec .compInit board = .next t :=
  ⟨⟨_, rfl⟩, ⟨_, rfl⟩, ⟨_, rfl⟩, _, rfl⟩

theorem witness_CommandsReadNoOtherInstance :
    ([{ testBlock 0x40001000 6 with result1 := 1 }] : List Block).map (fun b => b.bind) =
      twoBoards.peers.map (fun b => b.bind) ∧
    ([{ testBlock 0x40001000 6 with result1 := 1 }] : List Block) ≠ twoBoards.peers := by decide

/-- Each clause at its boundary: one byte past 2^32; one byte into the window from below and from above; and clear of it
on both sides. -/
theorem witness_TransfersStayInGuestMemory :
    2 ^ 32 < 0xFFFFFFFD + 4 ∧ 0xFFFFFFFC + 4 ≤ 2 ^ 32 ∧
    (0x3FFFFFFD < board.blk.bind.base + 0xC00 ∧ board.blk.bind.base < 0x3FFFFFFD + 4) ∧
    (0x40000BFF < board.blk.bind.base + 0xC00 ∧ board.blk.bind.base < 0x40000BFF + 4) ∧
    (∀ b ∈ board.blocks, 0x3FFFFFFC + 4 ≤ b.bind.base ∨ b.bind.base + 0xC00 ≤ 0x3FFFFFFC) ∧
    (∀ b ∈ board.blocks, 0x40000C00 + 4 ≤ b.bind.base ∨ b.bind.base + 0xC00 ≤ 0x40000C00) := by decide

theorem witness_GuestWordsAreStoredLittleEndian :
    board.guestMemOk 0x2000FFFC 4 = true ∧ (0x2000FFFC ≤ 0x2000FFFF ∧ 0x2000FFFF < 0x2000FFFC + 4) ∧
    ¬ (0x2000FFFC ≤ 0x2000FFFB) := by decide

theorem witness_SetnameSeesEarlierCpuStores :
    ([0x41, 0x42, 0x43, 0x44] : List Byte).length = 4 ∧
    (argBoard 0x20000000 0 0).guestMemOk (argBoard 0x20000000 0 0).blk.arg1.toNat 4 = true ∧
    ∃ t, guestStoreStep (argBoard 0x20000000 0 0).blk.arg1.toNat [0x41, 0x42, 0x43, 0x44] (argBoard 0x20000000 0 0) =
      .next t := ⟨rfl, by decide, _, rfl⟩

theorem witness_SetnameReadsWhatGetstatusStored :
    (argBoard 0x20000000 0 0).guestMemOk (argBoard 0x20000000 0 0).blk.arg1.toNat 31 = true ∧
    (argBoard 0x20000000 0 0).guestMemOk (argBoard 0x20000000 0 0).blk.arg1.toNat 4 = true := by decide

theorem witness_StepRunsTheTick :
    (queue twoBoards [.tick 1 (draw 7)]).over = false ∧ 1 ≤ (queue twoBoards [.tick 1 (draw 7)]).peers.length ∧
    (queue twoBoards [.tick 1 (draw 7)]).inputs = [.tick 1 (draw 7)] := by decide

theorem witness_TickNeedsADueDeadline :
    (queue (armedBoard 1 1) [.tick 0 (draw 7)]).inst? 0 = some (armedBoard 1 1).blk ∧
    (∃ t, step (queue (armedBoard 1 1) [.tick 0 (draw 7)]) = .next t) ∧
    (queue board [.tick 0 (draw 7)]).over = false ∧ board.blk.deadline = none := ⟨rfl, ⟨_, rfl⟩, by decide, rfl⟩

/-- A word that is no row of R73. -/
theorem witness_UnknownOnlyLogsTheWord : ∀ row ∈ opcodeMap, row.1 ≠ 0x00090000 := by decide

/-- The three clauses at the threshold. -/
theorem witness_TickFollowsTheHandshake :
    (armedBoard 999 999).blk.deadline = some 999 ∧ (armedBoard 999 999).blk.sup = .uninitialized ∧
    (armedBoard 999 999).now - (armedBoard 999 999).blk.epoch < 1000 ∧
    (armedBoard 1000 1000).blk.deadline = some 1000 ∧ (armedBoard 1000 1000).blk.sup = .uninitialized ∧
    1000 ≤ (armedBoard 1000 1000).now - (armedBoard 1000 1000).blk.epoch ∧
    (initBoard 1011 1011).blk.deadline = some 1011 ∧ (initBoard 1011 1011).blk.sup = .initialized ∧
    1011 ≤ (initBoard 1011 1011).now := by decide

theorem witness_ClockStopsAtDeadlines :
    (queue (armedBoard 1001 1011) [.advance 10]).over = false ∧
    (queue (armedBoard 1001 1011) [.advance 10]).inputs = [.advance 10] ∧
    (∀ b ∈ (armedBoard 1001 1011).blocks, b.deadline = some 1011 ∧ 1001 + 10 ≤ 1011 ∧ ¬ 1001 + 11 ≤ 1011) ∧
    ¬ 1 ≤ 0 := by decide

theorem witness_ExactTicksRunAtTheirDeadline :
    (queue runBoard [.tick 0 (draw 7)]).Inv ∧ (queue runBoard [.tick 0 (draw 7)]).params.timerExact = true ∧
    (queue runBoard [.tick 0 (draw 7)]).inst? 0 = some runBoard.blk ∧
    (queue runBoard [.tick 0 (draw 7)]).inputs = [.tick 0 (draw 7)] ∧
    ∃ t, step (queue runBoard [.tick 0 (draw 7)]) = .next t :=
  ⟨⟨witness_runBoard_inv.mem_wf, witness_runBoard_inv.history_past, witness_runBoard_inv.history_ordered,
    witness_runBoard_inv.blocks_inv⟩, rfl, rfl, rfl, _, rfl⟩

theorem witness_OutputsAreAppendedInTimeOrder :
    ∃ t, step (queue runBoard [.tick 0 (draw 7)]) = .next t ∧ t.history ≠ runBoard.history := ⟨_, rfl, by decide⟩

/-- The first clause: a tick after the handshake, and one at the threshold. The second: a tick just before the threshold,
and a step that is no tick. -/
theorem witness_OnlyQualifyingTicksInterrupt :
    (∃ t, step (queue runBoard [.tick 0 (draw 7)]) = .next t) ∧ runBoard.inst? 0 = some runBoard.blk ∧
    runBoard.blk.sup = .initialized ∧
    (∃ t, step (queue (armedBoard 1000 1000) [.tick 0 (draw 7)]) = .next t) ∧
    1000 ≤ (armedBoard 1000 1000).now - (armedBoard 1000 1000).blk.epoch ∧
    (∃ t, step (queue (armedBoard 999 999) [.tick 0 (draw 7)]) = .next t) ∧
    (armedBoard 999 999).blk.sup = .uninitialized ∧
    (armedBoard 999 999).now - (armedBoard 999 999).blk.epoch < 1000 ∧
    ∃ t, step (writing runBoard 0 [0, 0, 4, 0]) = .next t :=
  ⟨⟨_, rfl⟩, rfl, rfl, ⟨_, rfl⟩, by decide, ⟨_, rfl⟩, rfl, by decide, _, rfl⟩

theorem witness_TickOverwritesACommandResult :
    (initBoard 1011 1011).blk.sup = .initialized ∧ (initBoard 1011 1011).blk.deadline = some 1011 ∧
    1011 ≤ (initBoard 1011 1011).now ∧ ∃ t, exec .motGet (initBoard 1011 1011) = .next t :=
  ⟨rfl, rfl, by decide, _, rfl⟩

/-- A COMP.INIT at 998: the ticks are at 999, 1009 and 1019, on both sides of the threshold. -/
theorem witness_TicksFollowTheSchedule :
    (queue (armedBoard 998 999) (.advance 1 :: .tick 0 (draw 1) :: tickTrain [draw 2, draw 3])).over = false ∧
    (armedBoard 998 999).peers = [] ∧ (armedBoard 998 999).now = 998 ∧ (armedBoard 998 999).blk.sup = .uninitialized ∧
    (armedBoard 998 999).blk.epoch = 0 ∧ (armedBoard 998 999).blk.deadline = some (998 + 1) ∧
    nextOf (fun t => t.blk.deadline) (exec .compInit { board with now := 998 }) = some (some 999) := by decide

/-- A run: the tick due at 1 is taken, and then no agent moves. -/
def tickThenIdle : Nat → State
  | 0 => armedBoard 1 1
  | _ + 1 => (armedBoard 1 1).rearm

/-- The agents of that run. -/
def tickThenNone : Nat → Option Event
  | 0 => some (.tick 0 (draw 7))
  | _ + 1 => none

/-- R202: enabled at the deadline, not after the re-arm, not at an instance that is not there. -/
theorem test_mayTick : (armedBoard 1 1).mayTick 0 = true ∧ (armedBoard 1 1).rearm.mayTick 0 = false ∧
    (armedBoard 1 1).mayTick 1 = false := by decide

theorem witness_rearmed_not_due (k : Nat) : (armedBoard 1 1).rearm.mayTick k = false := by
  cases k with
  | zero => decide
  | succ k => simp [State.mayTick, State.rearm, State.onBlk, armedBoard, board, State.reset]

theorem witness_run : IsRun tickThenNone tickThenIdle := by
  intro i
  cases i <;> rfl

theorem witness_run_fair : WeaklyFair tickThenNone tickThenIdle := by
  intro k i h
  have := h (i + 1) (Nat.le_succ i)
  rw [show tickThenIdle (i + 1) = (armedBoard 1 1).rearm from rfl, witness_rearmed_not_due] at this
  cases this

theorem witness_FairRunsTakeDueTicks :
    IsRun tickThenNone tickThenIdle ∧ WeaklyFair tickThenNone tickThenIdle ∧ (tickThenIdle 0).mayTick 0 = true ∧
    (tickThenIdle 0).params.timerExact = true := ⟨witness_run, witness_run_fair, by decide, rfl⟩

/-- Each clause: a state with nothing due; a run with a tick and no advance, and no reset, its instance armed; a state with
time blocked and one with no tick due. -/
theorem witness_TimeMayStopButTheTimerStaysArmed :
    ((armedBoard 1 1).rearm.over = false ∧ (armedBoard 1 1).rearm.inputs = [] ∧
      ∀ k, (armedBoard 1 1).rearm.mayTick k = false) ∧
    (IsRun tickThenNone tickThenIdle ∧ (∀ n, 0 ≤ n → ∀ ms, tickThenNone n ≠ some (.advance ms)) ∧
      tickThenNone 0 = some (.tick 0 (draw 7)) ∧ (∀ n, 0 ≤ n → tickThenNone n ≠ some .reset) ∧
      (tickThenIdle 0).inst? 0 = some (armedBoard 1 1).blk ∧ (armedBoard 1 1).blk.deadline ≠ none) ∧
    (armedBoard 1 1).mayAdvance 1 = false ∧ board.mayAdvance 1 = true :=
  ⟨⟨by decide, rfl, witness_rearmed_not_due⟩,
    ⟨witness_run, fun n _ ms => by cases n <;> simp [tickThenNone], rfl, fun n _ => by cases n <;> simp [tickThenNone], rfl,
      by decide⟩, by decide, by decide⟩

theorem witness_ResetStepResetsEveryInstance :
    (queue twoBoards [.reset]).over = false ∧ (queue twoBoards [.reset]).inputs = [.reset] ∧
    (queue twoBoards [.reset]).inst? 1 = some (testBlock 0x40001000 6) := by decide

theorem witness_HaltedRunHasNoStep :
    (∀ b ∈ board.blocks, b.halted = none) ∧ ∃ b ∈ exitBoard.blocks, b.halted ≠ none :=
  ⟨by decide, exitBoard.blk, List.mem_cons_self, by decide⟩

theorem witness_FinalHistoryEndsWithExit : exitBoard.Inv ∧ exitBoard.final = true := ⟨witness_exitBoard_inv, by decide⟩

theorem witness_InstancesDoNotInterfere :
    (∃ t, step (writing twoBoards 1 [0, 0, 4, 0]) = .next t) ∧
    (writing twoBoards 1 [0, 0, 4, 0]).inputs = [.access 1 (.write 0 [0, 0, 4, 0])] ∧
    (∃ t, step (queue { twoBoards with peers := [(armedBoard 1 1).blk], now := 1 } [.tick 1 (draw 7)]) = .next t) ∧
    0 ≠ 1 := ⟨⟨_, rfl⟩, rfl, ⟨_, rfl⟩, by decide⟩

/-- A state with every latch set: Initialized, synced, armed, a fault recorded. -/
def latchedBoard : State := writing { initBoard 1001 1011 with
  blk := { (initBoard 1001 1011).blk with firstSyncDone := true, faults := [⟨.read, 0, 4⟩] } } 0 [0, 0, 4, 0]

theorem witness_LatchesHoldUntilReset :
    (∃ t, step latchedBoard = .next t) ∧ (∀ rest, latchedBoard.inputs ≠ .reset :: rest) ∧
    latchedBoard.inst? 0 = some latchedBoard.blk ∧ latchedBoard.blk.sup = .initialized ∧
    latchedBoard.blk.firstSyncDone = true ∧ latchedBoard.blk.deadline ≠ none ∧ latchedBoard.blk.faults ≠ [] ∧
    latchedBoard.params.initEpoch = .clockZero :=
  ⟨⟨_, rfl⟩, fun rest h => (by cases h), rfl, rfl, rfl, by decide, by decide, rfl⟩

theorem witness_EveryStepKeepsTheInvariant :
    (queue runBoard [.tick 0 (draw 7)]).Inv ∧ ∃ t, step (queue runBoard [.tick 0 (draw 7)]) = .next t :=
  ⟨witness_ExactTicksRunAtTheirDeadline.1, _, rfl⟩

end Sys2Proof.Machine.Tests
end

/-! # Proofs: outputs in time order, and the invariant of a run

What a step of any agent does to the output history and to virtual time is said once (`Progress`); the invariant's two
clauses on the history follow from it alone. The clauses on the instances rest on one fact beside `LocalEffect`: a step
starts with no instance halted, so no earlier `Exit` has to stay last. -/

namespace Sys2Proof.Machine

/-! ### Outputs and time -/

/-- What every agent's step leaves of the platform (00_scope.md R9, 60_exceptions.md R200): time does not go back, the
parameters and the number of instances stay, and the new outputs are appended with the time at the step's start. -/
structure Progress (s t : State) : Prop where
  now_le : s.now ≤ t.now
  params : t.params = s.params
  peers_length : t.peers.length = s.peers.length
  history : ∃ new, t.history = s.history ++ new ∧ ∀ r ∈ new, r.time = s.now

/-- A step that puts nothing out. -/
theorem Progress.of_silent {s t : State} (hn : s.now ≤ t.now) (hp : t.params = s.params)
    (hl : t.peers.length = s.peers.length) (hh : t.history = s.history) : Progress s t :=
  ⟨hn, hp, hl, [], by simp [hh], by simp⟩

/-- An access or a tick at instance `k`: moving the focus there and back changes nothing of the platform. -/
theorem LocalEffect.progress_focus {s t : State} {k : Nat} (L : LocalEffect (s.focus k) t) : Progress s (t.focus k) where
  now_le := by simp [L.now]
  params := by simp [L.params]
  peers_length := by simp [L.peers]
  history := by simpa using L.history

/-- Every agent's step makes progress. -/
theorem runEvent_progress {e : Event} {s t : State} (h : runEvent e s = .next t) : Progress s t := by
  cases e with
  | access k a =>
    obtain ⟨_, _, _, L, rfl, _⟩ := atInst_local h fun _ _ => LocalEffect.of_bus
    exact L.progress_focus
  | tick k fresh =>
    obtain ⟨_, _, _, L, rfl, _⟩ := atInst_local h fun _ _ => LocalEffect.of_tick
    exact L.progress_focus
  | advance ms =>
    obtain ⟨_, rfl⟩ := clockStep_next _ _ _ h
    exact .of_silent (Nat.le_add_right _ _) rfl rfl rfl
  | reset =>
    cases h
    exact .of_silent (Nat.le_refl _) rfl List.length_mapIdx rfl
  | guestStore addr bytes =>
    obtain ⟨_, rfl⟩ := guestStoreStep_next _ _ _ _ h
    exact .of_silent (Nat.le_refl _) rfl rfl rfl

/-- Every step of the machine makes progress, the idle one included. -/
theorem step_progress {s t : State} (h : step s = .next t) : Progress s t := by
  obtain ⟨_, ⟨_, rfl⟩ | ⟨e, rest, _, he⟩⟩ := step_next _ _ h
  · exact .of_silent (Nat.le_refl _) rfl rfl rfl
  · obtain ⟨hn, hp, hl, hh⟩ := runEvent_progress he
    exact ⟨hn, hp, hl, hh⟩

/-- Settles O46, by the cases of an agent's step (`runEvent_progress`). -/
theorem outputsAreAppendedInTimeOrder : Obligations.OutputsAreAppendedInTimeOrder := by
  intro s t h
  obtain ⟨hn, hp, hl, hh⟩ := step_progress h
  exact ⟨hn, hp, hl, hh⟩

/-- Records tagged with a time that has come stay so, and the new ones bear the step's own. -/
theorem Progress.history_past {s t : State} (P : Progress s t) (h : ∀ r ∈ s.history, r.time ≤ s.now) :
    ∀ r ∈ t.history, r.time ≤ t.now := by
  obtain ⟨new, hnew, htime⟩ := P.history
  intro r hr
  rcases List.mem_append.1 (hnew ▸ hr) with hr | hr
  · exact (h r hr).trans P.now_le
  · exact (htime r hr).le.trans P.now_le

/-- The new records come after the past, and share one time. -/
theorem Progress.history_ordered {s t : State} (P : Progress s t) (h : ∀ r ∈ s.history, r.time ≤ s.now)
    (ho : s.history.Pairwise fun r q => r.time ≤ q.time) : t.history.Pairwise fun r q => r.time ≤ q.time := by
  obtain ⟨new, hnew, htime⟩ := P.history
  rw [hnew, List.pairwise_append]
  refine ⟨ho, List.pairwise_of_forall_mem_list fun r hr q hq => ?_, fun r hr q hq => ?_⟩
  · rw [htime r hr, htime q hq]
  · exact htime q hq ▸ h r hr

/-! ### Guest memory -/

/-- A range in guest memory stays inside the 32-bit space (20_memory.md R50). -/
theorem State.inGuestMemory_le {s : State} {addr n : Nat} (h : s.inGuestMemory addr n = true) : addr + n ≤ 2 ^ 32 := by
  simp only [State.inGuestMemory, Bool.and_eq_true, decide_eq_true_eq] at h
  exact h.1

/-- An access or a tick at instance `k` keeps guest memory canonical: the focus does not touch it. -/
theorem LocalEffect.mem_wf_focus {s t : State} {k : Nat} (L : LocalEffect (s.focus k) t) (hm : Memory.wf s.mem) :
    Memory.wf (t.focus k).mem := by
  rw [State.focus_mem]
  exact L.mem_wf (State.focus_mem s k ▸ hm)

/-- Every agent's step keeps guest memory canonical. -/
theorem runEvent_mem_wf {e : Event} {s t : State} (h : runEvent e s = .next t) (hm : Memory.wf s.mem) :
    Memory.wf t.mem := by
  cases e with
  | access k a =>
    obtain ⟨_, _, _, L, rfl, _⟩ := atInst_local h fun _ _ => LocalEffect.of_bus
    exact L.mem_wf_focus hm
  | tick k fresh =>
    obtain ⟨_, _, _, L, rfl, _⟩ := atInst_local h fun _ _ => LocalEffect.of_tick
    exact L.mem_wf_focus hm
  | advance ms => obtain ⟨_, rfl⟩ := clockStep_next _ _ _ h; exact hm
  | reset => cases h; exact hm
  | guestStore addr bytes =>
    obtain ⟨hin, rfl⟩ := guestStoreStep_next _ _ _ _ h
    exact Memory.writeBytes_wf bytes s.mem addr hm (State.inGuestMemory_le hin)

/-! ### The instances -/

/-- While the run is not over, no instance has halted. -/
theorem State.halted_of_not_over {s : State} (ho : s.over = false) {b : Block} (hb : b ∈ s.blocks) :
    b.halted = none := by
  simpa using List.any_eq_false.1 ho b hb

theorem withinDeadline_iff (t : Nat) (b : Block) :
    withinDeadline t b = true ↔ ∀ d, b.deadline = some d → t ≤ d := by
  cases h : b.deadline <;> simp [withinDeadline, h]

/-- An advance that is enabled under TIMER_EXACT passes no deadline (60_exceptions.md R201). -/
theorem State.mayAdvance_on_time {s : State} {ms : Nat} (h : s.mayAdvance ms = true) (hx : s.params.timerExact = true)
    {b : Block} (hb : b ∈ s.blocks) {d : Nat} (hd : b.deadline = some d) : s.now + ms ≤ d := by
  have hall : s.blocks.all (withinDeadline (s.now + ms)) = true := by simp_all [State.mayAdvance]
  exact (withinDeadline_iff _ b).1 (List.all_eq_true.1 hall b hb) d hd

/-- An instance that no step moved and that has not halted keeps its invariant to any later time within its deadline,
whatever other agents put out. -/
theorem Block.Inv.later {p : Params} {now now' : Nat} {hist hist' : List OutRecord} {b : Block} (I : b.Inv p now hist)
    (hh : b.halted = none) (hle : now ≤ now')
    (hx : p.timerExact = true → ∀ d, b.deadline = some d → now' ≤ d) : b.Inv p now' hist' where
  epoch_past := I.epoch_past.trans hle
  epoch_zero := I.epoch_zero
  on_time := hx
  deadline_near d hd := (I.deadline_near d hd).trans (by omega)
  initialized_armed := I.initialized_armed
  handshake_late hz hs := (I.handshake_late hz hs).trans hle
  faults_nodup := I.faults_nodup
  exit_last c hc := by simp [hh] at hc

/-- An instance after a reset meets its invariant at any time: disarmed, Uninitialized, nothing recorded. -/
theorem Block.afterReset_inv (bind : Binding) (k inst now : Nat) (p : Params) (hist : List OutRecord) :
    (Block.afterReset bind k inst).Inv p now hist where
  epoch_past := Nat.zero_le now
  epoch_zero _ := rfl
  on_time _ _ hd := nomatch hd
  deadline_near _ hd := nomatch hd
  initialized_armed hs := nomatch hs
  handshake_late _ hs := nomatch hs
  faults_nodup := List.nodup_nil
  exit_last _ hc := nomatch hc

/-- An access or a tick that leaves the instance Initialized leaves its timer armed: it was Initialized before, or a tick
completed the handshake, and a tick needs an armed timer. -/
theorem LocalEffect.initialized_armed {s t : State} (L : LocalEffect s t)
    (ha : s.blk.sup = .initialized → s.blk.deadline ≠ none) (ht : t.blk.sup = .initialized) :
    t.blk.deadline ≠ none := by
  rcases L.handshake with hs | hu | ⟨hd, _⟩
  · exact L.armed_stays (ha hs)
  · simp [hu] at ht
  · exact L.armed_stays hd

/-- A deadline after an access or a tick is the old one, or a new one 1 ms or 10 ms ahead. -/
theorem LocalEffect.deadline_cases {s t : State} (L : LocalEffect s t) {d : Nat} (hd : t.blk.deadline = some d) :
    s.blk.deadline = some d ∨ d = s.now + firstTickMs ∨ d = s.now + tickPeriodMs := by
  rcases L.deadline with h | h | h <;> rw [h] at hd
  · exact .inl hd
  · exact .inr (.inl (Option.some.inj hd).symm)
  · exact .inr (.inr (Option.some.inj hd).symm)

/-- An access or a tick of an instance that has not halted keeps that instance's invariant. -/
theorem LocalEffect.blk_inv {s t : State} (L : LocalEffect s t) (I : s.blk.Inv s.params s.now s.history)
    (hh : s.blk.halted = none) : t.blk.Inv s.params s.now t.history where
  epoch_past := L.epoch_past I.epoch_past
  epoch_zero hz := (L.epoch_zero hz).trans (I.epoch_zero hz)
  on_time hx d hd := by
    rcases L.deadline_cases hd with h | rfl | rfl
    · exact I.on_time hx d h
    · exact Nat.le_add_right _ _
    · exact Nat.le_add_right _ _
  deadline_near d hd := by
    rcases L.deadline_cases hd with h | rfl | rfl
    · exact I.deadline_near d h
    · exact Nat.add_le_add_left (by decide) _
    · exact Nat.le_refl _
  initialized_armed := L.initialized_armed I.initialized_armed
  handshake_late hz ht := by
    rcases L.handshake with hs | hu | ⟨_, hlate⟩
    · exact I.handshake_late hz hs
    · simp [hu] at ht
    · exact hlate.trans (Nat.sub_le _ _)
  faults_nodup := L.faults_nodup I.faults_nodup
  exit_last := L.exit_last hh

/-- An access or a tick at one instance keeps the invariant of every instance: the others stand as they were. -/
theorem atInst_blocks_inv {s u : State} {k : Nat} {f : State → Answer} (h : atInst k f s = .next u)
    (hl : ∀ s t, f s = .next t → LocalEffect s t) (ho : s.over = false)
    (I : ∀ b ∈ s.blocks, b.Inv s.params s.now s.history) : ∀ b ∈ u.blocks, b.Inv u.params u.now u.history := by
  obtain ⟨t, _, _, L, rfl, hself, hself', hother⟩ := atInst_local h hl
  have hk := (s.mem_blocks_iff _).2 ⟨k, hself⟩
  intro b hb
  obtain ⟨j, hj⟩ := ((t.focus k).mem_blocks_iff b).1 hb
  simp only [State.focus_params, State.focus_now, State.focus_history, L.params, L.now]
  by_cases hjk : j = k
  · obtain rfl : t.blk = b := by simpa [hjk, hself'] using hj
    simpa using L.blk_inv (by simpa using I _ hk) (State.halted_of_not_over ho hk)
  · have hb' := (s.mem_blocks_iff b).2 ⟨j, hother j hjk ▸ hj⟩
    exact (I b hb').later (State.halted_of_not_over ho hb') (Nat.le_refl _) (I b hb').on_time

/-- After a reset of a machine every instance is one after reset. -/
theorem resetAll_mem_blocks {s : State} {b : Block} (hb : b ∈ (resetAll s).blocks) :
    ∃ bind i, b = Block.afterReset bind s.resets i := by
  rcases List.mem_cons.1 hb with rfl | hb
  · exact ⟨_, _, rfl⟩
  · obtain ⟨i, _, rfl⟩ := List.mem_mapIdx.1 hb
    exact ⟨_, _, rfl⟩

/-- Every agent's step keeps the invariant of every instance, while the run is not over. -/
theorem runEvent_blocks_inv {e : Event} {s t : State} (h : runEvent e s = .next t) (ho : s.over = false)
    (I : ∀ b ∈ s.blocks, b.Inv s.params s.now s.history) : ∀ b ∈ t.blocks, b.Inv t.params t.now t.history := by
  cases e with
  | access k a => exact atInst_blocks_inv h (fun _ _ => LocalEffect.of_bus) ho I
  | tick k fresh => exact atInst_blocks_inv h (fun _ _ => LocalEffect.of_tick) ho I
  | advance ms =>
    obtain ⟨hadv, rfl⟩ := clockStep_next _ _ _ h
    exact fun b hb => (I b hb).later (State.halted_of_not_over ho hb) (Nat.le_add_right _ _)
      fun hx d hd => State.mayAdvance_on_time hadv hx hb hd
  | reset =>
    cases h
    intro b hb
    obtain ⟨bind, i, rfl⟩ := resetAll_mem_blocks hb
    exact Block.afterReset_inv ..
  | guestStore addr bytes => obtain ⟨_, rfl⟩ := guestStoreStep_next _ _ _ _ h; exact I

/-! ### The invariant -/

/-- Every agent's step keeps the invariant, while the run is not over. -/
theorem runEvent_inv {e : Event} {s t : State} (h : runEvent e s = .next t) (ho : s.over = false) (I : s.Inv) :
    t.Inv where
  mem_wf := runEvent_mem_wf h I.mem_wf
  history_past := (runEvent_progress h).history_past I.history_past
  history_ordered := (runEvent_progress h).history_ordered I.history_past I.history_ordered
  blocks_inv := runEvent_blocks_inv h ho I.blocks_inv

/-- The invariant says nothing of the agents still to move. -/
theorem State.Inv.setInputs {s : State} (I : s.Inv) (q : List Event) : (s.setInputs q).Inv :=
  ⟨I.mem_wf, I.history_past, I.history_ordered, I.blocks_inv⟩

/-- Settles O59: an idle step changes nothing, and each agent's step keeps the invariant (`runEvent_inv`), since a step
starts with no instance halted. -/
theorem everyStepKeepsTheInvariant : Obligations.EveryStepKeepsTheInvariant := by
  intro s t I h
  obtain ⟨ho, ⟨_, rfl⟩ | ⟨e, rest, _, he⟩⟩ := step_next _ _ h
  · exact I
  · exact runEvent_inv he ho (I.setInputs rest)

end Sys2Proof.Machine

/-! # Proofs: who writes which state, what only a reset undoes, and the end of a run

The table of writers (10_state.md R34) is the inversion `CommandWrites`, which keeps the command beside its effect; the
latches are read off `LocalEffect` for the instance that moved; and the stop `runOver` is told from every other stop by
one lemma per agent that says which fault it can answer. -/

namespace Sys2Proof.Machine

/-! ### The writers of the state -/

/-- What each command's next state is, the command named beside it: the rows of the table of writers (10_state.md R34).
`CommandEffect` says the same without the command. -/
inductive CommandWrites (s : State) : Instr → State → Prop where
  /-- Only the results: any command may. -/
  | results (i : Instr) (r1 r2 : Word) : CommandWrites s i (s.setResults r1 r2)
  /-- The results and one output: any command may. -/
  | output (i : Instr) (e : OutEvent) : CommandWrites s i (s.clearResults.emit e)
  /-- COMP.INIT arms the timer (43_competition.md R130). -/
  | armed : CommandWrites s .compInit s.clearResults.arm
  /-- COMP.SETNAME takes the name (R133). -/
  | named (hok : s.guestMemOk s.guestAddr nameCopyLen = true) : CommandWrites s .compSetname
      (State.takeName (s.guestBytes s.guestAddr nameCopyLen) (s.clearResults.afterRead s.guestAddr nameCopyLen))
  /-- COMP.SETNAME's read is not admitted (20_memory.md R53). -/
  | notRead (hno : s.guestMemOk s.guestAddr nameCopyLen = false) :
      CommandWrites s .compSetname (s.clearResults.guestMemFault .read s.guestAddr nameCopyLen)
  /-- COMP.GETSTATUS stores the snapshot (43_competition.md R134). -/
  | synced (hok : s.guestMemOk s.guestAddr s.blk.status.toList.length = true) :
      CommandWrites s .compGetstatus (s.clearResults.afterWrite s.guestAddr s.blk.status.toList).markSynced
  /-- COMP.GETSTATUS's write is not admitted (20_memory.md R53). -/
  | notWritten (hno : s.guestMemOk s.guestAddr s.blk.status.toList.length = false) : CommandWrites s .compGetstatus
      (s.clearResults.guestMemFault .write s.guestAddr s.blk.status.toList.length)
  /-- SYS.EXIT ends the run (44_system_default.md R140). -/
  | exited : CommandWrites s .sysExit ((s.clearResults.emit (.exit s.a1)).onBlk (fun b => b.setHalted s.a1))

/-- COMP.SETNAME by the admission of its read. -/
theorem CommandWrites.of_setname {s t : State} (h : exec .compSetname s = .next t) : CommandWrites s .compSetname t := by
  cases h
  cases hok : s.guestMemOk s.guestAddr nameCopyLen with
  | true =>
    rw [State.memRead_admitted _ _ _ _ (by simpa using hok), State.clearResults_guestBytes]
    exact .named hok
  | false =>
    rw [State.memRead_not_admitted _ _ _ _ (by simpa using hok)]
    exact .notRead hok

/-- COMP.GETSTATUS by the admission of its write. -/
theorem CommandWrites.of_getstatus {s t : State} (h : exec .compGetstatus s = .next t) :
    CommandWrites s .compGetstatus t := by
  cases h
  cases hok : s.guestMemOk s.guestAddr s.blk.status.toList.length with
  | true =>
    rw [State.memWrite_admitted _ _ _ _ (by simpa using hok)]
    exact .synced hok
  | false =>
    rw [State.memWrite_not_admitted _ _ _ _ (by simpa using hok)]
    exact .notWritten hok

/-- COMP.INIT answers a next state only by arming. -/
theorem CommandWrites.of_init {s t : State} (h : exec .compInit s = .next t) : CommandWrites s .compInit t := by
  simp only [exec, execCompInit] at h
  split at h
  · cases h
  · cases h; exact .armed

/-- Every next state of a command is in its row of the table of writers. -/
theorem exec_writes {i : Instr} {s t : State} (h : exec i s = .next t) : CommandWrites s i t := by
  cases i with
  | compInit => exact .of_init h
  | compSetname => exact .of_setname h
  | compGetstatus => exact .of_getstatus h
  | sysExit => cases h; exact .exited
  | motGet | gpioGetin | gpioGetout | sysBreak => cases h; exact .results ..
  | serInit | serShutdown | serPutc | gpioAdcinit | gpioSetdir | gpioSetout | gpioSetimask | motSet | motStopall
  | compStandalone | unknown => cases h; exact .output ..

/-- Settles O34: each row of the table of writers leaves every field that the row does not write. -/
theorem commandsWriteOnlyTheirOwnState : Obligations.CommandsWriteOnlyTheirOwnState := by
  intro i s t h
  cases exec_writes h with
  | results _ r1 r2 => simp
  | output _ e => simp
  | armed => simp [State.arm_eq]
  | named =>
    unfold State.takeName
    split <;> simp
  | notRead => simp
  | synced => simp
  | notWritten => simp
  | exited => simp

/-! ### What only a reset undoes -/

/-- What an instance keeps of a record until a reset (10_state.md R24 to R29, R35), under the parameters `p`. -/
structure Block.Keeps (p : Params) (b b' : Block) : Prop where
  bind : b'.bind = b.bind
  sup : b.sup = .initialized → b'.sup = .initialized
  sync : b.firstSyncDone = true → b'.firstSyncDone = true
  armed : b.deadline ≠ none → b'.deadline ≠ none
  faults : ∀ f ∈ b.faults, f ∈ b'.faults
  name_tail : b'.name.toList.drop 4 = b.name.toList.drop 4
  epoch : p.initEpoch = .clockZero → b'.epoch = b.epoch

theorem Block.Keeps.refl (p : Params) (b : Block) : b.Keeps p b :=
  ⟨rfl, id, id, id, fun _ => id, rfl, fun _ => rfl⟩

/-- An access or a tick keeps the latches of the instance in focus. -/
theorem LocalEffect.keeps {s t : State} (L : LocalEffect s t) : s.blk.Keeps s.params t.blk :=
  ⟨L.bind, L.sup_stays, L.sync_stays, L.armed_stays, L.faults_stay, L.name_tail, L.epoch_zero⟩

/-- An access or a tick at instance `k` keeps the latches of every instance: its own by its effect, the others standing as
they were. -/
theorem atInst_keeps {s u : State} {k : Nat} {f : State → Answer} (h : atInst k f s = .next u)
    (hl : ∀ s t, f s = .next t → LocalEffect s t) {j : Nat} {b : Block} (hb : s.inst? j = some b) :
    ∃ b', u.inst? j = some b' ∧ b.Keeps s.params b' := by
  obtain ⟨t, _, _, L, _, hself, hself', hother⟩ := atInst_local h hl
  by_cases hjk : j = k
  · subst hjk
    obtain rfl : (s.focus j).blk = b := Option.some.inj (hself.symm.trans hb)
    exact ⟨t.blk, hself', by simpa using L.keeps⟩
  · exact ⟨b, (hother j hjk).trans hb, .refl ..⟩

/-- Every agent's step but a reset keeps the latches of every instance. -/
theorem runEvent_keeps {e : Event} {s t : State} (h : runEvent e s = .next t) (hr : e ≠ .reset) {k : Nat} {b : Block}
    (hb : s.inst? k = some b) : ∃ b', t.inst? k = some b' ∧ b.Keeps s.params b' := by
  cases e with
  | access j a => exact atInst_keeps h (fun _ _ => LocalEffect.of_bus) hb
  | tick j fresh => exact atInst_keeps h (fun _ _ => LocalEffect.of_tick) hb
  | advance ms => exact ⟨b, (runEvent_inst h k nofun nofun nofun).trans hb, .refl ..⟩
  | reset => exact absurd rfl hr
  | guestStore addr bytes => exact ⟨b, (runEvent_inst h k nofun nofun nofun).trans hb, .refl ..⟩

/-- Every step of the machine but a reset keeps the latches of every instance. -/
theorem step_keeps {s t : State} (h : step s = .next t) (hr : ∀ rest, s.inputs ≠ .reset :: rest) {k : Nat} {b : Block}
    (hb : s.inst? k = some b) : ∃ b', t.inst? k = some b' ∧ b.Keeps s.params b' := by
  obtain ⟨_, ⟨_, rfl⟩ | ⟨e, rest, hq, he⟩⟩ := step_next _ _ h
  · exact ⟨b, hb, .refl ..⟩
  · exact runEvent_keeps he (fun hreset => hr rest (hreset ▸ hq)) hb

/-- Settles O58: an idle step changes nothing, and each agent's step but a reset keeps the latches (`step_keeps`). -/
theorem latchesHoldUntilReset : Obligations.LatchesHoldUntilReset := by
  intro s t h hr k b hb
  obtain ⟨b', hb', K⟩ := step_keeps h hr hb
  exact ⟨b', hb', K.bind, K.sup, K.sync, K.armed, K.faults, K.name_tail, K.epoch⟩

/-! ### The stops of a step -/

/-- The run is over exactly when some instance has halted. -/
theorem State.over_iff (s : State) : s.over = true ↔ ∃ b ∈ s.blocks, b.halted ≠ none := by
  simp [State.over, Option.isSome_iff_ne_none]

/-- No command faults: COMP.INIT may be refused, every other command has a next state (43_competition.md R132). -/
theorem exec_ne_fault (i : Instr) (s : State) (r : Fault) : exec i s ≠ .fault r := by
  cases i with
  | compInit =>
    simp only [exec, execCompInit]
    split <;> nofun
  | _ => nofun

/-- A bus write never faults (20_memory.md R42 to R44). -/
theorem busWrite_ne_fault (off : Nat) (bytes : List Byte) (s : State) (r : Fault) : busWrite off bytes s ≠ .fault r := by
  unfold busWrite
  split
  · split
    · rename_i reg v _ _
      cases reg with
      | control => exact exec_ne_fault (decodeWord v) _ r
      | _ => nofun
    · nofun
  · nofun

/-- The one stop of a bus access is its offset outside the window (20_memory.md R40). -/
theorem busAccess_fault {a : BusAccess} {s : State} {r : Fault} (h : busAccess a s = .fault r) : r = .outsideWindow := by
  unfold busAccess at h
  split at h
  · cases a with
    | read off size => cases h
    | write off bytes => exact (busWrite_ne_fault _ _ _ _ h).elim
  · cases h; rfl

/-- The one stop of a tick is its deadline not come (60_exceptions.md R202). -/
theorem timerStep_fault {fresh : StatusBytes} {s : State} {r : Fault} (h : timerStep fresh s = .fault r) :
    r = .tickNotDue := by
  unfold timerStep at h
  split at h <;> cases h
  rfl

/-- The one stop of an advance (60_exceptions.md R201). -/
theorem clockStep_fault {ms : Nat} {s : State} {r : Fault} (h : clockStep ms s = .fault r) : r = .clockBlocked := by
  unfold clockStep at h
  split at h <;> cases h
  rfl

/-- The one stop of a store of the guest CPU (20_memory.md R50, R55). -/
theorem guestStoreStep_fault {addr : Nat} {bytes : List Byte} {s : State} {r : Fault}
    (h : guestStoreStep addr bytes s = .fault r) : r = .outsideGuestMemory := by
  unfold guestStoreStep at h
  split at h <;> cases h
  rfl

/-- A stop at instance `k`: there is no such instance, or its own step stops (60_exceptions.md R223). -/
theorem atInst_fault {k : Nat} {f : State → Answer} {s : State} {r : Fault} (h : atInst k f s = .fault r) :
    r = .noSuchInstance ∨ f (s.focus k) = .fault r := by
  unfold atInst at h
  split at h
  · cases hf : f (s.focus k) <;> rw [hf] at h <;> cases h
    exact .inr rfl
  · cases h; exact .inl rfl

/-- No agent's step answers `runOver`: only `step` itself raises it. -/
theorem runEvent_ne_runOver (e : Event) (s : State) : runEvent e s ≠ .fault .runOver := by
  intro h
  cases e with
  | access k a =>
    obtain hr | hf := atInst_fault h
    · cases hr
    · cases busAccess_fault hf
  | tick k fresh =>
    obtain hr | hf := atInst_fault h
    · cases hr
    · cases timerStep_fault hf
  | advance ms => cases clockStep_fault h
  | reset => cases h
  | guestStore addr bytes => cases guestStoreStep_fault h

/-- The step is the stop `runOver` exactly when the run is over (10_state.md R30, 70_reset_and_hazards.md R305). -/
theorem step_runOver_iff (s : State) : step s = .fault .runOver ↔ s.over = true := by
  unfold step
  split
  · rename_i ho; exact ⟨fun _ => ho, fun _ => rfl⟩
  · rename_i ho
    refine ⟨fun h => ?_, fun h => absurd h ho⟩
    split at h
    · cases h
    · exact (runEvent_ne_runOver _ _ h).elim

/-- Settles O55: the step stops at once when the run is over (`State.over_iff`), and no agent's own step answers that stop
(`runEvent_ne_runOver`). -/
theorem haltedRunHasNoStep : Obligations.HaltedRunHasNoStep := by
  intro s
  exact (step_runOver_iff s).trans s.over_iff

end Sys2Proof.Machine

/-! # Proofs: the byte order of an access, the bus port, and the master port's admission

The numeric value of a word's bytes is said once and serves both the bus (20_memory.md R46) and the block's own stores
(R47). A bus access is read in two stages: `step_access` brings the step to `busRead` or `busWrite` of the instance, and
one equation per clause of R41 to R44 says what those answer. Admission is one equivalence, `State.guestMemOk_iff`. -/

namespace Sys2Proof.Machine

/-! ### The byte order of a word -/

theorem toNat_append_eq_add {m n : Nat} (x : BitVec m) (y : BitVec n) :
    (x ++ y).toNat = x.toNat * 2 ^ n + y.toNat := by
  rw [BitVec.toNat_append, ← Nat.shiftLeft_add_eq_or_of_lt y.isLt, Nat.shiftLeft_eq]

theorem toNat_extractByte (v : Word) (o : Nat) : (v.extractLsb' o 8).toNat = v.toNat / 2 ^ o % 256 := by
  rw [BitVec.extractLsb'_toNat, Nat.shiftRight_eq_div_pow]

/-- Byte `i` of a word is bits 8i+7:8i, as a number (20_memory.md R46, R47). -/
theorem bytesOfWord_toNat (v : Word) {i : Nat} (hi : i < 4) :
    ((bytesOfWord v)[i]?).map BitVec.toNat = some (v.toNat / 2 ^ (8 * i) % 256) := by
  have hbyte : (bytesOfWord v)[i]? = some (v.extractLsb' (8 * i) 8) := by interval_cases i <;> rfl
  rw [hbyte, Option.map_some, toNat_extractByte]

/-- Only four bytes carry a word (20_memory.md R43). -/
theorem wordOfBytes_length {bytes : List Byte} {v : Word} (h : wordOfBytes bytes = some v) : bytes.length = 4 := by
  unfold wordOfBytes at h
  split at h
  · rfl
  · cases h

/-- The value of four bytes, the lowest address least significant (20_memory.md R46). -/
theorem toNat_of_bytes (b0 b1 b2 b3 : Byte) : (b3 ++ b2 ++ b1 ++ b0).toNat =
    b0.toNat + 256 * b1.toNat + 65536 * b2.toNat + 16777216 * b3.toNat := by
  simp only [toNat_append_eq_add]
  omega

/-- The bytes of a word made of four bytes are those four. -/
theorem bytesOfWord_append (b0 b1 b2 b3 : Byte) : bytesOfWord (b3 ++ b2 ++ b1 ++ b0) = [b0, b1, b2, b3] := by
  have hv := toNat_of_bytes b0 b1 b2 b3
  have h0 := b0.isLt
  have h1 := b1.isLt
  have h2 := b2.isLt
  have h3 := b3.isLt
  simp only [bytesOfWord, List.cons.injEq, and_true]
  refine ⟨?_, ?_, ?_, ?_⟩ <;> apply BitVec.eq_of_toNat_eq <;> rw [toNat_extractByte, hv] <;> omega

/-- Settles O6: the value of four bytes and of each byte of a word, as numbers. -/
theorem accessBytesAreLittleEndian : Obligations.AccessBytesAreLittleEndian :=
  ⟨fun b0 b1 b2 b3 => ⟨_, rfl, toNat_of_bytes b0 b1 b2 b3, bytesOfWord_append b0 b1 b2 b3⟩,
    fun v => ⟨Laws.wordOfBytes_bytesOfWord v, fun _ hi => bytesOfWord_toNat v hi⟩⟩

/-! ### What a bus access answers -/

/-- Malformed is what R43 says (20_memory.md). -/
theorem wellFormedAccess_eq_false_iff (off size : Nat) :
    wellFormedAccess off size = false ↔ size ≠ 4 ∨ off % 4 ≠ 0 := by
  simp [wellFormedAccess, imp_iff_not_or]

theorem wellFormedAccess_four {off : Nat} (h : off % 4 = 0) : wellFormedAccess off 4 = true := by
  simp [wellFormedAccess, h]

/-- No register lies elsewhere than at the six offsets of R20 (10_state.md). -/
theorem regAt_eq_none {off : Nat} (h0 : off ≠ 0x00) (h1 : off ≠ 0x04) (h2 : off ≠ 0x08) (h3 : off ≠ 0x0C)
    (h4 : off ≠ 0x10) (h5 : off ≠ 0x14) : regAt off = none := by
  unfold regAt
  split
  all_goals simp_all

/-- Every register's offset is aligned. -/
theorem regAt_aligned {off : Nat} {r : Reg} (h : regAt off = some r) : off % 4 = 0 := by
  unfold regAt at h
  split at h
  all_goals simp_all

/-- A malformed read returns zeros (20_memory.md R43). -/
theorem State.busValue_malformed (s : State) {off size : Nat} (h : size ≠ 4 ∨ off % 4 ≠ 0) :
    s.busValue off size = List.replicate size 0 := by
  simp [State.busValue, (wellFormedAccess_eq_false_iff off size).2 h]

/-- A well-formed read where no register lies returns zeros (20_memory.md R44). -/
theorem State.busValue_unused (s : State) {off : Nat} (ha : off % 4 = 0) (hr : regAt off = none) :
    s.busValue off 4 = [0, 0, 0, 0] := by
  simp [State.busValue, wellFormedAccess_four ha, hr, bytesOfWord]

/-- A well-formed read at a register's offset returns the register (20_memory.md R41). -/
theorem State.busValue_register (s : State) {off : Nat} {r : Reg} (hr : regAt off = some r) :
    s.busValue off 4 = bytesOfWord (s.x r) := by
  simp [State.busValue, wellFormedAccess_four (regAt_aligned hr), hr]

/-- A read returns as many bytes as it asks for. -/
theorem State.busValue_length (s : State) (off size : Nat) : (s.busValue off size).length = size := by
  by_cases h : size ≠ 4 ∨ off % 4 ≠ 0
  · rw [s.busValue_malformed h, List.length_replicate]
  · obtain ⟨rfl, ha⟩ : size = 4 ∧ off % 4 = 0 := by omega
    cases hr : regAt off with
    | none => rw [s.busValue_unused ha hr]; rfl
    | some r => rw [s.busValue_register hr]; rfl

theorem busAccess_read {off : Nat} (size : Nat) (s : State) (hw : off < regionSize) :
    busAccess (.read off size) s = .next (s.setReadData (s.busValue off size)) :=
  if_pos hw

theorem busAccess_write {off : Nat} (bytes : List Byte) (s : State) (hw : off < regionSize) :
    busAccess (.write off bytes) s = busWrite off bytes s :=
  if_pos hw

/-- The platform routes no access outside the window to the block (20_memory.md R40). -/
theorem busAccess_outside {a : BusAccess} (s : State) (hw : regionSize ≤ a.offset) :
    busAccess a s = .fault .outsideWindow :=
  if_neg (Nat.not_lt.2 hw)

/-- A malformed write is ignored (20_memory.md R43). -/
theorem busWrite_malformed {off : Nat} {bytes : List Byte} (s : State) (h : bytes.length ≠ 4 ∨ off % 4 ≠ 0) :
    busWrite off bytes s = .next s := by
  simp [busWrite, (wellFormedAccess_eq_false_iff off bytes.length).2 h]

/-- A write where no register lies is ignored (20_memory.md R44). -/
theorem busWrite_unused {off : Nat} (bytes : List Byte) (s : State) (hr : regAt off = none) :
    busWrite off bytes s = .next s := by
  simp [busWrite, hr]

/-- A write whose bytes carry no word is ignored. -/
theorem busWrite_no_word {bytes : List Byte} (off : Nat) (s : State) (hv : wordOfBytes bytes = none) :
    busWrite off bytes s = .next s := by
  simp [busWrite, hv]

/-- A write of a word at a register's offset (20_memory.md R42). -/
theorem busWrite_register {off : Nat} {r : Reg} {bytes : List Byte} {v : Word} (s : State) (hr : regAt off = some r)
    (hv : wordOfBytes bytes = some v) : busWrite off bytes s = writeReg r v s := by
  simp [busWrite, wordOfBytes_length hv, wellFormedAccess_four (regAt_aligned hr), hr, hv]

/-- A write of `control` stores the word and then runs its command (20_memory.md R42, 30_encoding.md R72). -/
theorem busWrite_control {bytes : List Byte} {v : Word} (s : State) (hv : wordOfBytes bytes = some v) :
    busWrite 0x00 bytes s = exec (decodeWord v) (s.setX .control v) :=
  busWrite_register (r := .control) s rfl hv

/-- No command writes `control` (10_state.md R34). -/
theorem exec_control {i : Instr} {s t : State} (h : exec i s = .next t) : t.blk.control = s.blk.control := by
  obtain ⟨hcontrol, _⟩ := commandsWriteOnlyTheirOwnState i s t h
  exact hcontrol

/-- Settles O12: one equation of `busWrite` for each clause; the control word reads back since no command writes it. -/
theorem busWriteDecodesByOffset : Obligations.BusWriteDecodesByOffset := by
  refine ⟨fun s off bytes h => busWrite_malformed s h, fun s bytes v hv => ⟨busWrite_control s hv, fun t ht => ?_,
    busWrite_register (r := .arg1) s rfl hv, busWrite_register (r := .arg2) s rfl hv,
    busWrite_register (r := .arg3) s rfl hv, busWrite_register (r := .result1) s rfl hv,
    busWrite_register (r := .result2) s rfl hv,
    fun off h0 h1 h2 h3 h4 h5 => busWrite_unused _ s (regAt_eq_none h0 h1 h2 h3 h4 h5)⟩⟩
  rw [busWrite_control s hv] at ht
  simpa using exec_control ht

/-! ### Repeated accesses -/

theorem State.setX_setX (s : State) (r : Reg) (v : Word) : (s.setX r v).setX r v = s.setX r v := by
  cases r <;> rfl

/-- Storing in `control` the word it holds changes nothing. -/
theorem State.setX_control_self (s : State) : s.setX .control s.blk.control = s := rfl

/-- Writing a register that only stores is idempotent. -/
theorem busWrite_store_again {off : Nat} {r : Reg} {bytes : List Byte} {s t : State} (hr : regAt off = some r)
    (hstore : ∀ v s, writeReg r v s = .next (s.setX r v)) (h : busWrite off bytes s = .next t) :
    busWrite off bytes t = .next t := by
  cases hv : wordOfBytes bytes with
  | none => exact busWrite_no_word off t hv
  | some v =>
    rw [busWrite_register s hr hv, hstore] at h
    cases h
    rw [busWrite_register _ hr hv, hstore, State.setX_setX]

/-- A control write is not idempotent: SER.INIT (word 0) written twice to the machine after reset logs twice. -/
theorem busWrite_control_not_idempotent : ∃ (s t u : State) (bytes : List Byte),
    busWrite 0x00 bytes s = .next t ∧ busWrite 0x00 bytes t = .next u ∧ u ≠ t :=
  ⟨State.reset, _, _, [0, 0, 0, 0], rfl, rfl, fun h => absurd (congrArg (fun t => t.history.length) h) (by decide)⟩

/-- Settles O13: a read records its value alone and does not rest on it, an argument write only stores, and a control
write of the word held stores nothing new before it dispatches. -/
theorem readsAndArgumentWritesAreIdempotent : Obligations.ReadsAndArgumentWritesAreIdempotent := by
  refine ⟨fun s off size => ⟨s.busValue off size, s.busValue_length off size, rfl, rfl⟩, ?_, ?_,
    busWrite_control_not_idempotent⟩
  · rintro s t off bytes (rfl | rfl | rfl) h
    · exact busWrite_store_again (r := .arg1) rfl (fun _ _ => rfl) h
    · exact busWrite_store_again (r := .arg2) rfl (fun _ _ => rfl) h
    · exact busWrite_store_again (r := .arg3) rfl (fun _ _ => rfl) h
  · rintro s bytes _ hv rfl
    rw [busWrite_control s hv, State.setX_control_self]

/-! ### A step whose next event is an access -/

/-- An instance that is there takes its step in focus and is put back (60_exceptions.md R223). -/
theorem atInst_eq {k : Nat} {s : State} (f : State → Answer) (hk : k ≤ s.peers.length) :
    atInst k f s = mapNext (fun t => t.focus k) (f (s.focus k)) := by
  simp [atInst, hk]

section Access

variable {s : State} {k off : Nat} {rest : List Event}

/-- An access that heads the queue is the step, at its instance. -/
theorem step_access {a : BusAccess} (ho : s.over = false) (hk : k ≤ s.peers.length)
    (hq : s.inputs = .access k a :: rest) :
    step s = mapNext (fun t => t.focus k) (busAccess a ((s.setInputs rest).focus k)) := by
  rw [step_event s _ rest ho hq]
  exact atInst_eq (busAccess a) hk

/-- A read in the window answers with its value and leaves all else (20_memory.md R41). -/
theorem step_read {size : Nat} (ho : s.over = false) (hk : k ≤ s.peers.length)
    (hq : s.inputs = .access k (.read off size) :: rest) (hw : off < regionSize) :
    step s = .next ((s.setInputs rest).setReadData ((s.focus k).busValue off size)) := by
  rw [step_access ho hk hq, busAccess_read size _ hw, mapNext, State.setReadData_focus, State.focus_focus,
    State.setInputs_focus]
  rfl

/-- A write in the window is `busWrite` at its instance (20_memory.md R42). -/
theorem step_write {bytes : List Byte} (ho : s.over = false) (hk : k ≤ s.peers.length)
    (hq : s.inputs = .access k (.write off bytes) :: rest) (hw : off < regionSize) :
    step s = mapNext (fun t => t.focus k) (busWrite off bytes ((s.setInputs rest).focus k)) := by
  rw [step_access ho hk hq, busAccess_write bytes _ hw]

/-- A write in the window that `busWrite` ignores only leaves the queue. -/
theorem step_write_ignored {bytes : List Byte} (ho : s.over = false) (hk : k ≤ s.peers.length)
    (hq : s.inputs = .access k (.write off bytes) :: rest) (hw : off < regionSize)
    (hno : ∀ t, busWrite off bytes t = .next t) : step s = .next (s.setInputs rest) := by
  rw [step_write ho hk hq hw, hno, mapNext, State.focus_focus]

/-- An access outside the window stops, whichever it is (20_memory.md R40, log 2). -/
theorem step_outside {a : BusAccess} (ho : s.over = false) (hk : k ≤ s.peers.length)
    (hq : s.inputs = .access k a :: rest) (hw : regionSize ≤ a.offset) : step s = .fault .outsideWindow := by
  rw [step_access ho hk hq, busAccess_outside _ hw, mapNext]

end Access

/-- Settles O9: at any offset a malformed read returns zeros and a malformed write is ignored. -/
theorem malformedAccessesAreAbsorbed : Obligations.MalformedAccessesAreAbsorbed := by
  intro s k off rest ho hk hw
  refine ⟨fun size hm hq => ?_, fun bytes hm hq => ?_⟩
  · rw [step_read ho hk hq hw, State.busValue_malformed _ hm]
    rfl
  · exact step_write_ignored ho hk hq hw fun t => busWrite_malformed t hm

/-- Settles O10: no register lies at 0x18 or above. -/
theorem unusedOffsetsReadZero : Obligations.UnusedOffsetsReadZero := by
  intro s k off rest ho hk hlow hw ha
  have hr : regAt off = none := by apply regAt_eq_none <;> omega
  refine ⟨fun hq => ?_, fun bytes _ hq => ?_⟩
  · rw [step_read ho hk hq hw, State.busValue_unused _ ha hr]
    rfl
  · exact step_write_ignored ho hk hq hw fun t => busWrite_unused bytes t hr

/-- A well-formed read at a register's offset of instance `k` (20_memory.md R41). -/
theorem step_read_register {s : State} {k off : Nat} {b : Block} {r : Reg} {rest : List Event} (ho : s.over = false)
    (hb : s.inst? k = some b) (hq : s.inputs = .access k (.read off 4) :: rest) (hw : off < regionSize)
    (hr : regAt off = some r) : step s = .next { s with inputs := rest, readData := bytesOfWord (b.get r) } := by
  rw [step_read ho (s.inst?_le k b hb) hq hw, State.busValue_register _ hr, State.x, s.focus_blk k b hb]
  rfl

/-- Settles O11, register by register. -/
theorem registerReadsReturnTheRegister : Obligations.RegisterReadsReturnTheRegister := by
  rintro s k b rest off v ho hb hq
    (⟨rfl, rfl⟩ | ⟨rfl, rfl⟩ | ⟨rfl, rfl⟩ | ⟨rfl, rfl⟩ | ⟨rfl, rfl⟩ | ⟨rfl, rfl⟩)
  · exact step_read_register (r := .control) ho hb hq (by decide) rfl
  · exact step_read_register (r := .arg1) ho hb hq (by decide) rfl
  · exact step_read_register (r := .arg2) ho hb hq (by decide) rfl
  · exact step_read_register (r := .arg3) ho hb hq (by decide) rfl
  · exact step_read_register (r := .result1) ho hb hq (by decide) rfl
  · exact step_read_register (r := .result2) ho hb hq (by decide) rfl

/-- Settles O14: reads and writes alike stop at the window's end (`step_outside`). -/
theorem accessOutsideTheWindowStops : Obligations.AccessOutsideTheWindowStops :=
  fun _ _ _ _ _ _ ho hk hw => ⟨fun hq => step_outside ho hk hq hw, fun hq => step_outside ho hk hq hw⟩

/-! ### A step that runs a command -/

/-- The command of four bytes is the command of their word. -/
theorem decode_of_word {bytes : List Byte} {v : Word} (hv : wordOfBytes bytes = some v) :
    decode bytes = .ok (decodeWord v) := by
  simp [decode, hv]

/-- Settles O7: the access is a control write in the window, and its bytes decode as their word does. -/
theorem stepRunsTheDecodedCommand : Obligations.StepRunsTheDecodedCommand := by
  intro s k bytes rest v i ho hk hq hv hi
  obtain rfl : decodeWord v = i := by simpa [decode_of_word hv] using hi
  rw [step_write ho hk hq (by decide), busWrite_control _ hv]
  rfl

/-- A word placed as the next control write of instance 0, which is in focus already, is the command that runs. -/
theorem step_placed_word (s : State) (v : Word) (ho : s.over = false) :
    step (s.setInputs (.access 0 (.write 0x00 (bytesOfWord v)) :: s.inputs)) =
      exec (decodeWord v) (s.setX .control v) :=
  calc step (s.setInputs (.access 0 (.write 0x00 (bytesOfWord v)) :: s.inputs))
      = runEvent (.access 0 (.write 0x00 (bytesOfWord v))) s := step_event _ _ _ ho rfl
    _ = busAccess (.write 0x00 (bytesOfWord v)) s := atInst_zero _ s
    _ = busWrite 0x00 (bytesOfWord v) s := busAccess_write _ s (by decide)
    _ = exec (decodeWord v) (s.setX .control v) := busWrite_control s (Laws.wordOfBytes_bytesOfWord v)

/-- Settles O8: what `withFetchWord` places is that control write. -/
theorem fetchWordIsTheNextCommand : Obligations.FetchWordIsTheNextCommand := by
  intro s w ho hw
  rw [State.withFetchWord, Nat.mod_eq_of_lt hw]
  exact step_placed_word s _ ho

/-! ### Admission of a transfer -/

theorem overlapsWindow_eq_false_iff (b : Binding) (addr n : Nat) :
    overlapsWindow b addr n = false ↔ addr + n ≤ b.base ∨ b.base + regionSize ≤ addr := by
  simp only [overlapsWindow, Bool.and_eq_false_iff, decide_eq_false_iff_not]
  omega

/-- A transfer is admitted exactly when it stays in the 32-bit space, clear of every register window, and a grant of the
platform covers it (20_memory.md R53, R54, log 5). -/
theorem State.guestMemOk_iff (s : State) (addr n : Nat) : s.guestMemOk addr n = true ↔
    addr + n ≤ guestSpace ∧ (∀ b ∈ s.blocks, addr + n ≤ b.bind.base ∨ b.bind.base + regionSize ≤ addr) ∧
      ∃ g ∈ s.params.grants, grantCovers addr n g = true := by
  simp [State.guestMemOk, State.inGuestMemory, overlapsWindow_eq_false_iff, and_assoc]

/-- Settles O36, from the three conjuncts of admission. -/
theorem transfersStayInGuestMemory : Obligations.TransfersStayInGuestMemory := by
  intro s addr n
  have hiff := s.guestMemOk_iff addr n
  refine ⟨fun hpast => ?_, fun b hb hlow hhigh => ?_, fun hin hclear => ?_⟩
  · refine Bool.eq_false_iff.2 fun hok => ?_
    obtain ⟨hin, _⟩ := hiff.1 hok
    exact absurd hin (Nat.not_le.2 hpast)
  · refine Bool.eq_false_iff.2 fun hok => ?_
    obtain ⟨_, hclear, _⟩ := hiff.1 hok
    have : addr + n ≤ b.bind.base ∨ b.bind.base + 0xC00 ≤ addr := hclear b hb
    omega
  · exact hiff.trans ⟨fun ⟨_, _, hg⟩ => hg, fun hg => ⟨hin, hclear, hg⟩⟩

/-! ### What lies in guest memory after a store -/

/-- Settles O37: the admitted store writes the word's bytes, and a byte of a word is bits of its value. -/
theorem guestWordsAreStoredLittleEndian : Obligations.GuestWordsAreStoredLittleEndian := by
  intro s addr v hok a
  have hmem : (s.memWriteWord addr v id).mem = Memory.writeBytes s.mem addr (bytesOfWord v) := by
    rw [State.memWriteWord, s.memWrite_admitted addr (bytesOfWord v) id hok]
    rfl
  rw [hmem, Memory.read_writeBytes, show (bytesOfWord v).length = 4 from rfl]
  split
  · exact bytesOfWord_toNat v (by omega)
  · rfl

/-- A byte just stored reads back as stored. -/
theorem State.guestByte_stored (s : State) (addr : Nat) (bytes : List Byte) {i : Nat} (hi : i < bytes.length) :
    (s.setMem (Memory.writeBytes s.mem addr bytes)).guestByte (addr + i) = bytes[i] := by
  have hread : Memory.read (Memory.writeBytes s.mem addr bytes) (addr + i) = some bytes[i] := by
    rw [Memory.read_writeBytes, if_pos (by omega), Nat.add_sub_cancel_left, List.getElem?_eq_getElem hi]
  simp [State.guestByte, hread]

/-- A range just stored reads back as stored (20_memory.md R61). -/
theorem State.guestBytes_stored (s : State) (addr : Nat) (bytes : List Byte) {n : Nat} (hn : bytes.length = n) :
    ((s.setMem (Memory.writeBytes s.mem addr bytes)).guestBytes addr n).toList = bytes := by
  apply List.ext_getElem
  · simp [hn]
  · intro i _ hi
    simp [State.guestBytes, State.guestByte_stored s addr bytes hi]

/-- The first four bytes of the name are those taken (43_competition.md R133). -/
theorem nameWith_take (old : NameBytes) (new : Vector Byte nameCopyLen) :
    (nameWith old new).toList.take 4 = new.toList := by
  apply List.ext_getElem
  · simp [nameWith, Config.nameLen]
  · intro i hi _
    have : i < 4 := by simp at hi; omega
    simp [nameWith, this]

/-- The trace of a set name does not touch the name. -/
theorem State.takeName_name (bytes : Vector Byte nameCopyLen) (s : State) :
    (State.takeName bytes s).blk.name = nameWith s.blk.name bytes := by
  unfold State.takeName
  split <;> rfl

/-- An admitted COMP.SETNAME takes the four guest bytes at arg1 (43_competition.md R133). -/
theorem exec_compSetname_takes (s : State) (hok : s.guestMemOk s.blk.arg1.toNat 4 = true) :
    ∃ u, exec .compSetname s = .next u ∧ u.blk.name.toList.take 4 = (s.guestBytes s.blk.arg1.toNat 4).toList := by
  refine ⟨_, rfl, ?_⟩
  rw [State.memRead_admitted _ _ _ _ (by simpa using hok), State.takeName_name, nameWith_take]
  rfl

/-- Settles O38: a store of the guest CPU changes no admission, and its bytes are the four that set name takes. -/
theorem setnameSeesEarlierCpuStores : Obligations.SetnameSeesEarlierCpuStores := by
  intro s t bytes hlen hok hstore
  obtain ⟨_, rfl⟩ := guestStoreStep_next _ _ _ _ hstore
  obtain ⟨u, hu, hname⟩ := exec_compSetname_takes (s.setMem (Memory.writeBytes s.mem s.blk.arg1.toNat bytes))
    ((s.guestMemOk_congr _ _ _ rfl rfl).trans hok)
  exact ⟨u, hu, hname.trans (s.guestBytes_stored _ bytes hlen)⟩

end Sys2Proof.Machine

/-! # Proofs: the opcode map, the decoder and the encoder, and the result registers

The two halves of a word are numbers (30_encoding.md R70), so they and the word determine each other. The decoder is known
from three facts on its table: a row's word decodes to the row's command, a word of no row decodes to UNKNOWN of its
halves, and the words of the rows are exactly those whose halves are assigned (`row_iff_assigned`; R73, R74). -/

namespace Sys2Proof.Machine

/-! ### The two halves of a word -/

theorem moduleOf_toNat (v : Word) : (moduleOf v).toNat = v.toNat / 65536 := by
  have hv := v.isLt
  rw [moduleOf, BitVec.extractLsb'_toNat, Nat.shiftRight_eq_div_pow]
  omega

theorem functionOf_toNat (v : Word) : (functionOf v).toNat = v.toNat % 65536 := by
  rw [functionOf, BitVec.extractLsb'_toNat, Nat.shiftRight_zero]

theorem controlWord_toNat (m f : Half) : (controlWord m f).toNat = m.toNat * 65536 + f.toNat :=
  toNat_append_eq_add m f

@[simp] theorem moduleOf_controlWord (m f : Half) : moduleOf (controlWord m f) = m := by
  apply BitVec.eq_of_toNat_eq
  rw [moduleOf_toNat, controlWord_toNat]
  omega

@[simp] theorem functionOf_controlWord (m f : Half) : functionOf (controlWord m f) = f := by
  apply BitVec.eq_of_toNat_eq
  rw [functionOf_toNat, controlWord_toNat]
  omega

/-! ### The opcode map -/

/-- A row of the map is a named command, written with the row's word, and the word's halves are assigned
(30_encoding.md R73). -/
theorem opcodeMap_row : ∀ row ∈ opcodeMap, decodeWord row.1 = row.2 ∧ encode row.2 = row.1 ∧ row.2.wf = true ∧
    assigned (moduleOf row.1) (functionOf row.1) = true := by
  decide

/-- The unassigned pairs, as R74 lists them. -/
theorem assigned_eq_false_iff (m f : Half) : assigned m f = false ↔
    m.toNat = 1 ∨ m.toNat = 2 ∨ 7 ≤ m.toNat ∨ (m.toNat = 0 ∧ 3 ≤ f.toNat) ∨ (m.toNat = 3 ∧ 6 ≤ f.toNat) ∨
      (m.toNat = 4 ∧ 3 ≤ f.toNat) ∨ (m.toNat = 5 ∧ 4 ≤ f.toNat) ∨ (m.toNat = 6 ∧ 2 ≤ f.toNat) := by
  unfold assigned
  split <;> simp only [decide_eq_false_iff_not, imp_false, true_iff] at * <;> omega

/-- The assigned pairs stand in a small corner: modules to 6 and functions to 5. -/
theorem assigned_lt {m f : Half} (h : assigned m f = true) : m.toNat < 7 ∧ f.toNat < 6 := by
  have hnot := (assigned_eq_false_iff m f).not.1 (by simp [h])
  omega

/-- Every assigned pair has a row: the corner `assigned_lt` gives is small enough to look through. -/
theorem row_of_assigned {m f : Half} (h : assigned m f = true) : ∃ row ∈ opcodeMap, row.1 = controlWord m f := by
  have corner : ∀ m < 7, ∀ f < 6, assigned (.ofNat 16 m) (.ofNat 16 f) = true →
      ∃ row ∈ opcodeMap, row.1 = controlWord (.ofNat 16 m) (.ofNat 16 f) := by decide
  obtain ⟨hm, hf⟩ := assigned_lt h
  simpa only [BitVec.ofNat_toNat, BitVec.setWidth_eq, h, true_imp_iff] using corner _ hm _ hf

/-- The words of the map are exactly the words of assigned halves (R73, R74). -/
theorem row_iff_assigned (v : Word) :
    (∃ row ∈ opcodeMap, row.1 = v) ↔ assigned (moduleOf v) (functionOf v) = true := by
  constructor
  · rintro ⟨row, hrow, rfl⟩
    obtain ⟨-, -, -, hassigned⟩ := opcodeMap_row row hrow
    exact hassigned
  · intro h
    simpa only [Laws.controlWord_split] using row_of_assigned h

/-! ### The decoder -/

/-- A word that heads no row of a table is not found in it. -/
theorem lookupWord_eq_none {v : Word} {rows : List (Word × Instr)} (h : ∀ row ∈ rows, row.1 ≠ v) :
    lookupWord v rows = none := by
  induction rows with
  | nil => rfl
  | cons row rows ih =>
    obtain ⟨hne, hrest⟩ := List.forall_mem_cons.1 h
    rw [lookupWord, if_neg (Ne.symm hne), ih hrest]

/-- A word of no row runs UNKNOWN with its halves (30_encoding.md R74). -/
theorem decodeWord_of_no_row {v : Word} (h : ∀ row ∈ opcodeMap, row.1 ≠ v) :
    decodeWord v = .unknown (moduleOf v) (functionOf v) := by
  rw [decodeWord, lookupWord_eq_none h]

/-- A word of unassigned halves runs UNKNOWN with its halves. -/
theorem decodeWord_unassigned {v : Word} (h : assigned (moduleOf v) (functionOf v) = false) :
    decodeWord v = .unknown (moduleOf v) (functionOf v) :=
  decodeWord_of_no_row fun row hrow hv => by simpa [h] using (row_iff_assigned v).1 ⟨row, hrow, hv⟩

/-- What a word decodes to: its row's command, or UNKNOWN where its halves are unassigned. -/
theorem decodeWord_cases (v : Word) :
    (∃ row ∈ opcodeMap, row.1 = v ∧ decodeWord v = row.2) ∨
      (assigned (moduleOf v) (functionOf v) = false ∧ decodeWord v = .unknown (moduleOf v) (functionOf v)) := by
  cases h : assigned (moduleOf v) (functionOf v) with
  | true =>
    obtain ⟨row, hrow, rfl⟩ := (row_iff_assigned v).2 h
    exact .inl ⟨row, hrow, rfl, (opcodeMap_row row hrow).1⟩
  | false => exact .inr ⟨rfl, decodeWord_unassigned h⟩

/-- Every word decodes to a well-formed command (30_encoding.md R74). -/
theorem decodeWord_wf (v : Word) : (decodeWord v).wf = true := by
  obtain ⟨row, hrow, -, hd⟩ | ⟨hu, hd⟩ := decodeWord_cases v
  · obtain ⟨-, -, hwf, -⟩ := opcodeMap_row row hrow
    rw [hd, hwf]
  · simp [hd, Instr.wf, hu]

/-- UNKNOWN of its own halves is what exactly the unassigned words run: the command of a word is well-formed. -/
theorem decodeWord_eq_unknown_iff (m f : Half) :
    decodeWord (controlWord m f) = .unknown m f ↔ assigned m f = false := by
  constructor
  · intro h
    have hwf := decodeWord_wf (controlWord m f)
    simpa [h, Instr.wf] using hwf
  · intro h
    simpa using decodeWord_unassigned (v := controlWord m f) (by simpa using h)

/-- No word is lost in the decoding: its command is written with it. -/
theorem encode_decodeWord (v : Word) : encode (decodeWord v) = v := by
  obtain ⟨row, hrow, hv, hd⟩ | ⟨-, hd⟩ := decodeWord_cases v
  · obtain ⟨-, henc, -, -⟩ := opcodeMap_row row hrow
    rw [hd, henc, hv]
  · rw [hd, encode, Laws.controlWord_split]

/-- The word of a well-formed command decodes to it: a named one by its row, UNKNOWN because its halves are unassigned. -/
theorem decodeWord_encode {i : Instr} (h : i.wf = true) : decodeWord (encode i) = i := by
  cases i with
  | unknown m f => exact (decodeWord_eq_unknown_iff m f).2 (by simpa [Instr.wf] using h)
  | _ => rfl

/-- The bytes of a word decode to the word's command. -/
theorem decode_bytesOfWord (v : Word) : decode (bytesOfWord v) = .ok (decodeWord v) :=
  decode_of_word (Laws.wordOfBytes_bytesOfWord v)

/-- Four bytes are a command, and no other number of them is (30_encoding.md R70). -/
theorem decode_ok_iff (bytes : List Byte) : (∃ i, decode bytes = .ok i) ↔ bytes.length = 4 := by
  constructor
  · rintro ⟨i, hi⟩
    cases hv : wordOfBytes bytes with
    | some v => exact wordOfBytes_length hv
    | none => simp [decode, hv] at hi
  · intro h
    match bytes, h with
    | [b0, b1, b2, b3], _ => exact ⟨_, rfl⟩

/-- Settles O2, by the word of the command: its bytes carry it, and it decodes to the command. -/
theorem decodeOfEncodeIsTheCommand : Obligations.DecodeOfEncodeIsTheCommand := by
  intro i hi
  rw [encodeBytes, decode_bytesOfWord, decodeWord_encode hi]

/-- Settles O3: the encoder and the decoder are inverse to each other on well-formed commands. -/
theorem everyWordIsOneCommand : Obligations.EveryWordIsOneCommand := by
  refine fun v => ⟨decodeWord_wf v, encode_decodeWord v, ?_⟩
  rintro i hi rfl
  exact (decodeWord_encode hi).symm

/-- Settles O4: R74's list is the unassigned pairs, and no command faults. -/
theorem unassignedWordsAreUnknown : Obligations.UnassignedWordsAreUnknown := fun m f =>
  ⟨(decodeWord_eq_unknown_iff m f).trans (assigned_eq_false_iff m f), decode_bytesOfWord _, fun s r => exec_ne_fault _ s r⟩

/-- Settles O1, by looking up the twenty words. -/
theorem tableWordsDecode : Obligations.TableWordsDecode := by
  unfold Obligations.TableWordsDecode
  decide

/-- Settles O5, by the numeric values of the halves and of the word. -/
theorem controlWordHasTwoHalves : Obligations.ControlWordHasTwoHalves :=
  ⟨fun v => ⟨moduleOf_toNat v, functionOf_toNat v⟩, controlWord_toNat, decode_ok_iff⟩

/-! ### The result registers -/

/-- The two result registers of the instance in focus (10_state.md R23). -/
def State.results (s : State) : Word × Word := (s.blk.result1, s.blk.result2)

/-- The clear with which every dispatch begins (30_encoding.md R72). -/
@[simp] theorem State.clearResults_results (s : State) : s.clearResults.results = (0, 0) := rfl

@[simp] theorem State.arm_results (s : State) : s.arm.results = s.results := by
  rw [State.arm_eq]
  rfl

theorem State.takeName_results (bytes : Vector Byte nameCopyLen) (s : State) :
    (State.takeName bytes s).results = s.results := by
  unfold State.takeName
  split <;> rfl

/-- A transfer writes no result, admitted or not, when the rest of its command writes none. -/
theorem State.memRead_results (s : State) (addr : Nat) {n : Nat} {rest : Vector Byte n → State → State}
    (hrest : ∀ bytes u, (rest bytes u).results = u.results) : (s.memRead addr n rest).results = s.results := by
  unfold State.memRead
  split
  · exact hrest _ _
  · rfl

@[inherit_doc State.memRead_results]
theorem State.memWrite_results (s : State) (addr : Nat) (bytes : List Byte) {rest : State → State}
    (hrest : ∀ u, (rest u).results = u.results) : (s.memWrite addr bytes rest).results = s.results := by
  unfold State.memWrite
  split
  · exact hrest _
  · rfl

/-- The results of a command's next state: those of the clear, but for MOT.GET (42_motor.md R120). -/
theorem exec_results {i : Instr} {s t : State} (h : exec i s = .next t) :
    t.results = (if i = .motGet then 127 else 0, 0) := by
  cases i with
  | compInit =>
    simp only [exec, execCompInit] at h
    split at h
    · cases h
    · cases h
      exact s.clearResults.arm_results
  | compSetname => cases h; exact State.memRead_results _ _ State.takeName_results
  | compGetstatus => cases h; exact State.memWrite_results _ _ _ fun _ => rfl
  | _ => cases h; rfl

/-- Settles O33, by the cases of the command (`exec_results`). -/
theorem everyCommandClearsTheResults : Obligations.EveryCommandClearsTheResults := by
  intro i s t h
  obtain ⟨h1, h2⟩ := Prod.mk.inj (exec_results h)
  exact ⟨h2, h1⟩

end Sys2Proof.Machine

/-! # Proofs: the Serial commands

A command that clears the results and then emits has one whole effect (`State.clearResults_emit`), and a command that only
logs is the case of one trace record (`State.clearResults_traceArgs`). The Serial commands differ only in what they emit. -/

namespace Sys2Proof.Machine

/-! ### The clear and one output -/

/-- The whole state after the clear and one output (30_encoding.md R72, 00_scope.md R9). -/
theorem State.clearResults_emit (s : State) (e : OutEvent) : s.clearResults.emit e = { s with
    blk := { s.blk with result1 := 0, result2 := 0 }
    history := s.history ++ [⟨s.now, e⟩] } := rfl

/-- A command that only logs outputs one trace record of its arguments, which the clear leaves alone (00_scope.md R10). -/
theorem State.clearResults_traceArgs (s : State) (t : Word → Word → Word → TraceRec) :
    s.clearResults.traceArgs t = s.clearResults.emit (.trace (t s.blk.arg1 s.blk.arg2 s.blk.arg3)) := rfl

/-! ### The Serial commands -/

/-- The character of SER.PUTC is arg2 without its bits 31:8 (40_serial.md R102). -/
theorem State.putcByte_toNat (s : State) : s.putcByte.toNat = s.blk.arg2.toNat % 256 := by
  rw [State.putcByte, toNat_extractByte, pow_zero, Nat.div_one]
  rfl

/-- Settles O15: SER.INIT only logs, and `toString` of a number is its unsigned decimal. -/
theorem serInitLogsItsArguments : Obligations.SerInitLogsItsArguments := by
  refine ⟨rfl, fun s => ?_, fun _ _ _ => rfl, by decide⟩
  rw [exec, execSerInit, State.clearResults_traceArgs, State.clearResults_emit]

/-- Settles O16: SER.SHUTDOWN only logs. -/
theorem serShutdownOnlyLogs : Obligations.SerShutdownOnlyLogs := by
  refine ⟨rfl, fun s => ?_⟩
  rw [exec, execSerShutdown, State.clearResults_traceArgs, State.clearResults_emit]

/-- Settles O17: the byte of SER.PUTC is the low byte of arg2 (`State.putcByte_toNat`), and it is the one output. -/
theorem serPutcEmitsTheLowByte : Obligations.SerPutcEmitsTheLowByte := by
  refine ⟨rfl, fun s => ⟨s.putcByte, s.putcByte_toNat, ?_⟩⟩
  rw [exec, execSerPutc, State.clearResults_emit]

end Sys2Proof.Machine

/-! # Proofs: the GPIO commands

No pin, no ADC and no interrupt mask is driven (41_gpio.md). Four of the commands only log (`State.clearResults_traceArgs`), and what each
logs is all that tells them apart; the two reserved ones do the clear alone (`State.clearResults_eq`). -/

namespace Sys2Proof.Machine

/-- The whole state after the clear (30_encoding.md R72). -/
theorem State.clearResults_eq (s : State) :
    s.clearResults = { s with blk := { s.blk with result1 := 0, result2 := 0 } } := rfl

/-- The mode in the record of GPIO.SETDIR is the open map at arg2 (41_gpio.md R111). -/
theorem State.pinMode_eq (s : State) : s.pinMode = Config.gpioModeOf s.blk.arg2 := by
  rw [State.pinMode, State.a2_eq]

/-- Settles O18: GPIO.ADCINIT only logs. -/
theorem gpioAdcinitOnlyLogs : Obligations.GpioAdcinitOnlyLogs := by
  refine ⟨rfl, fun s => ?_⟩
  rw [exec, execGpioAdcinit, State.clearResults_traceArgs, State.clearResults_emit]

/-- Settles O19: GPIO.SETDIR only logs, and the mode it logs is the map's at arg2 (`State.pinMode_eq`). -/
theorem gpioSetdirLogsTheMode : Obligations.GpioSetdirLogsTheMode := by
  refine ⟨rfl, fun s => ?_⟩
  rw [exec, execGpioSetdir, State.clearResults_traceArgs, State.clearResults_emit, State.pinMode_eq]

/-- Settles O20: both reserved commands are matched, and do the clear alone. -/
theorem gpioReservedCommandsOnlyClear : Obligations.GpioReservedCommandsOnlyClear := by
  refine fun s => ⟨?getin, ?getout, rfl, rfl⟩
  case getin => rw [exec, execGpioGetin, State.clearResults_eq]
  case getout => rw [exec, execGpioGetout, State.clearResults_eq]

/-- Settles O21: GPIO.SETOUT and GPIO.SETIMASK only log. -/
theorem gpioSetoutAndMaskOnlyLog : Obligations.GpioSetoutAndMaskOnlyLog := by
  refine ⟨rfl, rfl, fun s => ⟨?setout, ?setimask⟩⟩
  case setout => rw [exec, execGpioSetout, State.clearResults_traceArgs, State.clearResults_emit]
  case setimask => rw [exec, execGpioSetimask, State.clearResults_traceArgs, State.clearResults_emit]

end Sys2Proof.Machine

/-! # Proofs: the Motor commands

No motor state exists (42_motor.md): MOT.SET and MOT.STOPALL only log (`State.clearResults_traceArgs`), and MOT.GET puts one
fixed value in the results. A tick that raises the interrupt writes the results anew, whatever command ran before it. -/

namespace Sys2Proof.Machine

/-! ### The results of a tick -/

/-- A tick after the handshake leaves 1 and 0 in the results (60_exceptions.md R206). -/
theorem State.tick_results_of_initialized {s : State} (fresh : StatusBytes) (hs : s.blk.sup = .initialized) :
    (s.tick fresh).results = (1, 0) := by
  have htick : s.tick fresh = ((s.onBlk (fun b => b.setStatus fresh)).initializedTick).rearm := by
    simpa [hs] using s.tick_cases fresh
  rw [htick]
  rfl

/-- The tick that completes the handshake leaves 0 in both results (60_exceptions.md R205). -/
theorem State.tick_results_of_handshake {s : State} (fresh : StatusBytes) (hs : s.blk.sup = .uninitialized)
    (hreached : s.thresholdReached = true) : (s.tick fresh).results = (0, 0) := by
  have htick : s.tick fresh = ((s.onBlk (fun b => b.setStatus fresh)).handshakeTick).rearm := by
    simpa [hs, hreached] using s.tick_cases fresh
  rw [htick]
  rfl

/-- Once its deadline has come, an armed timer has its tick (60_exceptions.md R202). -/
theorem timerStep_of_due {s : State} {d : Nat} (fresh : StatusBytes) (hd : s.blk.deadline = some d) (hnow : d ≤ s.now) :
    timerStep fresh s = .next (s.tick fresh) := by
  simp [timerStep, State.tickDue, hd, hnow]

/-! ### The Motor commands -/

/-- MOT.GET has a next state from every state, and it is this one (42_motor.md R120). -/
theorem exec_motGet (s : State) :
    exec .motGet s = .next { s with blk := { s.blk with result1 := 0x7F, result2 := 0 } } := rfl

/-- A next state of MOT.GET stands as the state before it to the timer and the handshake (42_motor.md R120). -/
theorem exec_motGet_keeps_timer {s t : State} (h : exec .motGet s = .next t) :
    t.blk.sup = s.blk.sup ∧ t.blk.deadline = s.blk.deadline ∧ t.blk.epoch = s.blk.epoch ∧ t.now = s.now := by
  cases (exec_motGet s).symm.trans h
  exact ⟨rfl, rfl, rfl, rfl⟩

/-- Settles O22: MOT.GET leaves the supervisor, the clock and the epoch as they were, so these decide which tick follows,
and that tick's own results stand. -/
theorem motGetAnswers127 : Obligations.MotGetAnswers127 := by
  refine ⟨rfl, exec_motGet, fun s t u fresh hget htick => ?_⟩
  obtain ⟨hsup, _, hepoch, hnow⟩ := exec_motGet_keeps_timer hget
  obtain ⟨_, rfl⟩ := timerStep_next _ _ _ htick
  rw [← hsup, ← hepoch, ← hnow]
  refine ⟨fun hs => ?initialized, fun hs hlate => ?handshake⟩
  case initialized => exact congrArg Prod.fst (State.tick_results_of_initialized fresh hs)
  case handshake => exact congrArg Prod.fst (State.tick_results_of_handshake fresh hs (decide_eq_true hlate))

/-- Settles O23: both commands only log, and MOT.GET answers 127 in every state, so after MOT.SET too. -/
theorem motSetAndStopallOnlyLog : Obligations.MotSetAndStopallOnlyLog := by
  refine ⟨rfl, rfl, fun s => ⟨?set, ?stopall, fun t _ => ⟨_, exec_motGet t, rfl⟩⟩⟩
  case set => rw [exec, execMotSet, State.clearResults_traceArgs, State.clearResults_emit]
  case stopall => rw [exec, execMotStopall, State.clearResults_traceArgs, State.clearResults_emit]

/-- Settles O48: MOT.GET moves neither the deadline nor the clock, so the tick is due after it as before, and the results it
writes replace MOT.GET's. -/
theorem tickOverwritesACommandResult : Obligations.TickOverwritesACommandResult := by
  intro s t fresh d hs hd hdue hget
  obtain ⟨hsup, hdeadline, _, hnow⟩ := exec_motGet_keeps_timer hget
  obtain ⟨h1, h2⟩ := Prod.mk.inj (State.tick_results_of_initialized fresh (hsup.trans hs))
  exact ⟨congrArg Prod.fst (exec_results hget), _, timerStep_of_due fresh (hdeadline.trans hd) (hnow ▸ hdue), h1, h2⟩

end Sys2Proof.Machine

/-! # Proofs: the Competition commands

COMP.INIT arms or is refused (`exec_compInit`), and its tick 1 ms later is read off the armed state. The two transfers each
have one whole effect when admitted and one fault record when not. The marshaller's fields are slices of the block's
bytes, so serializing them again gives the bytes back, and serializing is injective. -/

namespace Sys2Proof.Machine

/-! ### COMP.INIT -/

/-- COMP.INIT is refused or arms (43_competition.md R130, R132). -/
theorem exec_compInit (s : State) : exec .compInit s =
    if s.reinitRefused then .refused .reinitWhileArmed else .next s.clearResults.arm := rfl

theorem State.reinitRefused_iff (s : State) :
    s.reinitRefused = true ↔ s.blk.deadline ≠ none ∧ s.params.reinitPolicy = .refuse := by
  simp [State.reinitRefused, Option.isSome_iff_ne_none]

theorem exec_compInit_refused {s : State} (hd : s.blk.deadline ≠ none) (hp : s.params.reinitPolicy = .refuse) :
    exec .compInit s = .refused .reinitWhileArmed := by
  rw [exec_compInit, if_pos (s.reinitRefused_iff.2 ⟨hd, hp⟩)]

theorem exec_compInit_arms {s : State} (h : s.blk.deadline = none ∨ s.params.reinitPolicy = .restart) :
    exec .compInit s = .next s.clearResults.arm := by
  rw [exec_compInit, if_neg]
  intro href
  obtain ⟨hd, hp⟩ := s.reinitRefused_iff.1 href
  rcases h with h | h
  · exact hd h
  · simp [hp] at h

/-- A next state of COMP.INIT is the armed one. -/
theorem exec_compInit_next {s t : State} (h : exec .compInit s = .next t) : t = s.clearResults.arm := by
  rw [exec_compInit] at h
  split at h
  · cases h
  · cases h; rfl

/-- The whole state after the clear and the arming (43_competition.md R130, 10_state.md R35). -/
theorem State.clearResults_arm (s : State) : s.clearResults.arm = { s with
    blk := { s.blk with
      result1 := 0
      result2 := 0
      deadline := some (s.now + 1)
      epoch := if s.params.initEpoch = .armTime then s.now else s.blk.epoch } } := State.arm_eq _

/-- A tick after the handshake is the one of 60_exceptions.md R206, then re-armed. -/
theorem State.tick_of_initialized {s : State} (fresh : StatusBytes) (hs : s.blk.sup = .initialized) :
    s.tick fresh = ((s.onBlk (fun b => b.setStatus fresh)).initializedTick).rearm := by
  simpa [hs] using s.tick_cases fresh

/-- Before its deadline an armed timer has no tick (60_exceptions.md R202). -/
theorem timerStep_of_early {s : State} {d : Nat} (fresh : StatusBytes) (hd : s.blk.deadline = some d) (hnow : s.now < d) :
    timerStep fresh s = .fault .tickNotDue := by
  simp [timerStep, State.tickDue, hd, hnow]

/-- Settles O24: COMP.INIT arms or is refused, and the armed timer's tick is due at now + 1, where the handshake state
stands as COMP.INIT found it. -/
theorem compInitArmsTheTimer : Obligations.CompInitArmsTheTimer := by
  refine ⟨rfl, fun s => ⟨fun h => ?arms, exec_compInit_refused, fun hs t ht fresh => ?tick⟩⟩
  case arms => rw [exec_compInit_arms h, State.clearResults_arm]
  case tick =>
    obtain rfl := (exec_compInit_next ht).trans s.clearResults_arm
    refine ⟨_, timerStep_of_due fresh rfl (Nat.le_refl _), ?_⟩
    rw [State.tick_of_initialized fresh (by exact hs)]
    exact ⟨hs, rfl, rfl⟩

/-- Settles O25: the restarted timer has the one deadline now + 1, which no earlier time has reached. -/
theorem compInitWhileArmedFollowsThePolicy : Obligations.CompInitWhileArmedFollowsThePolicy := by
  intro s d hd
  refine ⟨fun hp => exec_compInit_refused (by simp [hd]) hp, fun hp => ?_⟩
  have hdeadline : s.clearResults.arm.blk.deadline = some (s.now + 1) := by rw [State.clearResults_arm]
  exact ⟨_, exec_compInit_arms (.inr hp), hdeadline,
    fun n fresh hn => timerStep_of_early (s := State.setNow _ n) fresh hdeadline (Nat.lt_succ_of_le hn)⟩

/-! ### COMP.STANDALONE -/

/-- Settles O26: COMP.STANDALONE only logs. -/
theorem compStandaloneOnlyLogs : Obligations.CompStandaloneOnlyLogs := by
  refine ⟨rfl, fun s => ?_⟩
  rw [exec, execCompStandalone, State.clearResults_traceArgs, State.clearResults_emit]

/-! ### COMP.SETNAME -/

/-- COMP.SETNAME's read admitted: the name is taken (43_competition.md R133). -/
theorem exec_compSetname_admitted {s : State} (hok : s.guestMemOk s.blk.arg1.toNat 4 = true) :
    exec .compSetname s = .next (State.takeName (s.guestBytes s.blk.arg1.toNat 4)
      (s.clearResults.afterRead s.blk.arg1.toNat 4)) := by
  rw [exec, execCompSetname, State.memRead_admitted _ _ _ _ (by simpa using hok)]
  rfl

/-- Set name, as one record update: the name, and its trace while no sync has happened (R133). -/
theorem State.takeName_eq (bytes : Vector Byte nameCopyLen) (s : State) : State.takeName bytes s = { s with
    blk := { s.blk with name := nameWith s.blk.name bytes }
    history := s.history ++
      (if s.blk.firstSyncDone then [] else [⟨s.now, .trace (.setName (nameWith s.blk.name bytes))⟩]) } := by
  cases h : s.blk.firstSyncDone <;> simp [State.takeName, h, State.onBlk, Block.setName, State.emitTrace, State.emit]

/-- The new name is the bytes taken, then the old tail (R133, 90_conflicts.md C5). -/
theorem nameWith_toList (old : NameBytes) (new : Vector Byte nameCopyLen) :
    (nameWith old new).toList = new.toList ++ old.toList.drop 4 := by
  rw [← nameWith_take old new, ← nameWith_drop old new, List.take_append_drop]

/-- Byte `i` of a guest read is the guest byte at `addr + i` (20_memory.md R51, R54). -/
theorem State.guestBytes_toList (s : State) (addr n : Nat) :
    (s.guestBytes addr n).toList = (List.range n).map (fun i => s.guestByte (addr + i)) := by
  apply List.ext_getElem <;> simp [State.guestBytes]

/-- The whole state after the clear and a transfer that is not admitted: the fault is recorded once (20_memory.md R53,
10_state.md R29). -/
theorem State.clearResults_guestMemFault (s : State) (dir : Dir) (addr n : Nat) :
    s.clearResults.guestMemFault dir addr n = { s with
      blk := { s.blk with
        result1 := 0
        result2 := 0
        faults := if ⟨dir, addr, n⟩ ∈ s.blk.faults then s.blk.faults else s.blk.faults ++ [⟨dir, addr, n⟩] } } := rfl

/-- Settles O27: by the admission of the read; what an admitted one takes is `State.takeName_eq` on the bytes read. -/
theorem compSetnameCopiesFourBytes : Obligations.CompSetnameCopiesFourBytes := by
  refine ⟨rfl, fun s => ⟨fun hok => ?admitted, fun hno => ?notAdmitted⟩⟩
  case admitted =>
    refine ⟨_, _, exec_compSetname_admitted hok, s.guestBytes_toList _ 4, ?name, ?whole⟩
    case name => rw [State.takeName_name]; exact nameWith_toList _ _
    case whole => rw [State.takeName_eq]; rfl
  case notAdmitted =>
    rw [exec, execCompSetname, State.memRead_not_admitted _ _ _ _ (by simpa using hno), State.clearResults_guestMemFault]
    rfl

/-! ### COMP.GETSTATUS -/

/-- The status block is STATUS_LEN bytes (10_state.md R27). -/
theorem statusBytes_length (b : StatusBytes) : b.toList.length = 31 := Vector.length_toList

/-- COMP.GETSTATUS's write admitted: the snapshot is stored and the sync marked (43_competition.md R134). -/
theorem exec_compGetstatus_admitted {s : State} (hok : s.guestMemOk s.blk.arg1.toNat 31 = true) :
    exec .compGetstatus s =
      .next (s.clearResults.afterWrite s.blk.arg1.toNat s.blk.status.toList).markSynced := by
  rw [exec, execCompGetstatus, State.memWrite_admitted _ _ _ _ (by
    rw [statusBytes_length, State.clearResults_guestMemOk, State.guestAddr_eq, hok])]
  rfl

/-- Settles O28: by the admission of the write; the bytes in memory after an admitted one are those of a run of stores
(`Memory.read_writeBytes`). -/
theorem compGetstatusStoresTheSnapshot : Obligations.CompGetstatusStoresTheSnapshot := by
  refine ⟨rfl, fun s => ⟨fun hok => ⟨_, exec_compGetstatus_admitted hok, fun a => ?memory, rfl⟩, fun hno => ?notAdmitted⟩⟩
  case memory =>
    have hread := Memory.read_writeBytes s.blk.status.toList s.mem s.blk.arg1.toNat a
    rwa [statusBytes_length, Vector.getElem?_toList] at hread
  case notAdmitted =>
    have hno' : s.clearResults.guestMemOk s.guestAddr s.blk.status.toList.length = false := by
      rw [statusBytes_length, State.clearResults_guestMemOk, State.guestAddr_eq, hno]
    rw [exec, execCompGetstatus, State.memWrite_not_admitted _ _ _ _ hno', State.clearResults_guestMemFault,
      statusBytes_length, State.guestAddr_eq]

/-! ### COMP.SETNAME after COMP.GETSTATUS -/

/-- The first bytes of a range just stored read back as stored (log 3). -/
theorem State.guestBytes_stored_take (s : State) (addr : Nat) (bytes : List Byte) {n : Nat} (hn : n ≤ bytes.length) :
    ((s.setMem (Memory.writeBytes s.mem addr bytes)).guestBytes addr n).toList = bytes.take n := by
  apply List.ext_getElem
  · simp [hn]
  · intro i hi _
    have hlt : i < bytes.length := by simp at hi; omega
    simp [State.guestBytes, State.guestByte_stored s addr bytes hlt]

/-- Settles O39: get status changes no admission, the four bytes that set name takes are those it stored, and it has
marked the sync, so set name leaves no trace. -/
theorem setnameReadsWhatGetstatusStored : Obligations.SetnameReadsWhatGetstatusStored := by
  intro s hok31 hok4
  have hok : (s.clearResults.afterWrite s.blk.arg1.toNat s.blk.status.toList).markSynced.guestMemOk
      s.blk.arg1.toNat 4 = true := (s.guestMemOk_congr _ _ _ rfl rfl).trans hok4
  refine ⟨_, _, exec_compGetstatus_admitted hok31, exec_compSetname_admitted hok, ?name, ?history⟩
  case name =>
    rw [State.takeName_name, nameWith_take]
    exact s.guestBytes_stored_take _ _ (by rw [statusBytes_length]; decide)
  case history => simp [State.takeName_eq]

/-! ### The marshaller -/

/-- Consecutive bytes of the block as a vector are a slice of its list. -/
theorem toList_ofFn_slice (b : StatusBytes) (o n : Nat) (h : o + n ≤ 31) :
    (Vector.ofFn fun i : Fin n => b[o + i.val]'(by simp only [Config.statusLen, Config.joyBytes]; omega)).toList =
      (b.toList.drop o).take n := by
  apply List.ext_getElem
  · simp only [Vector.length_toList, List.length_take, List.length_drop, Config.statusLen, Config.joyBytes]
    omega
  · simp

/-- A joystick record is its 14 bytes (10_state.md R27). -/
theorem joyList_joystickAt (b : StatusBytes) (o : Nat) (h : o + 14 ≤ 31) :
    joyList (joystickAt b o h) = (b.toList.drop o).take 14 := by
  have haxis := toList_ofFn_slice b o 6 (by omega)
  have hbuttons := toList_ofFn_slice b (o + 6) 2 (by omega)
  have hreserved := toList_ofFn_slice b (o + 8) 6 (by omega)
  rw [joyList, joystickAt, haxis, hbuttons, hreserved, show 14 = 6 + (2 + 6) from rfl, List.take_add, List.take_add,
    List.drop_drop, List.drop_drop, List.append_assoc]

/-- The fields of a joystick record have fixed lengths, so its bytes determine them. -/
theorem joyList_injective : Function.Injective joyList := by
  intro j k h
  obtain ⟨hab, hr⟩ := List.append_inj h (by simp)
  obtain ⟨ha, hb⟩ := List.append_inj hab (by simp)
  cases j; cases k
  simp_all [Vector.toList_inj]

/-- The fields of a status block have fixed lengths, so its bytes determine them. -/
theorem serializeList_injective : Function.Injective serializeList := by
  intro st su h
  obtain ⟨hhead, h1⟩ := List.append_inj h (by simp [joyList])
  obtain ⟨hbytes, h0⟩ := List.append_inj hhead rfl
  cases st; cases su
  simp_all [joyList_injective.eq_iff]

theorem serialize_toList (st : StatusBlock) : (serialize st).toList = serializeList st := by
  simp [serialize, Vector.toList]

/-- The fields of the block, serialized, are its bytes (43_competition.md R135). -/
theorem serialize_deserialize (b : StatusBytes) : serialize (deserialize b) = b := by
  apply Vector.toList_inj.1
  have hhead : [b[0], b[1], b[2]] = b.toList.take 3 := toList_ofFn_slice b 0 3 (by decide)
  calc (serialize (deserialize b)).toList
      = b.toList.take 3 ++ (b.toList.drop 3).take 14 ++ (b.toList.drop 17).take 14 := by
        rw [serialize_toList, serializeList, deserialize, joyList_joystickAt, joyList_joystickAt, hhead]
    _ = b.toList.take 31 := by rw [← List.take_add, ← List.take_add]
    _ = b.toList := List.take_of_length_le (statusBytes_length b).le

/-- Serializing loses no field (43_competition.md R135). -/
theorem deserialize_serialize (st : StatusBlock) : deserialize (serialize st) = st := by
  apply serializeList_injective
  rw [← serialize_toList, serialize_deserialize, serialize_toList]

/-- Settles O40: the fields are consecutive slices of the bytes, so serializing them gives the bytes back, and it is
injective. -/
theorem marshallerRoundTrips : Obligations.MarshallerRoundTrips :=
  ⟨deserialize_serialize, serialize_deserialize, serialize_toList⟩

end Sys2Proof.Machine

/-! # Proofs: the System commands and the fallback

SYS.EXIT halts the instance in focus, and one halted instance is enough to stop every agent (`step_runOver_iff`). SYS.BREAK
does the clear alone (`State.clearResults_eq`), and UNKNOWN only logs (`State.clearResults_traceArgs`). -/

namespace Sys2Proof.Machine

/-! ### A halt of the instance in focus -/

/-- The instance in focus ends the run for every instance (10_state.md R30, 60_exceptions.md R223). -/
theorem State.over_of_halted {s : State} {c : Word} (h : s.blk.halted = some c) : s.over = true :=
  s.over_iff.2 ⟨s.blk, List.mem_cons_self, by simp [h]⟩

/-- The exit code of the run is that of the instance in focus, where it has one (44_system_default.md R140). -/
theorem State.exitCode_of_halted {s : State} {c : Word} (h : s.blk.halted = some c) : s.exitCode = some c := by
  rw [State.exitCode, State.blocks, List.findSome?_cons, h]

/-- The host's view is EXIT_CODE_MAP's of that code (92_eei_decisions.md D24). -/
theorem State.hostExit_of_halted {s : State} {c : Word} (h : s.blk.halted = some c) :
    s.hostExit = some (Config.exitCodeMap c) := by
  rw [State.hostExit, State.exitCode_of_halted h, Option.map_some]

/-! ### The System commands -/

/-- SYS.EXIT has a next state from every state, and it is this one (44_system_default.md R140). -/
theorem exec_sysExit (s : State) : exec .sysExit s = .next { s with
    blk := { s.blk with result1 := 0, result2 := 0, halted := some s.blk.arg1 }
    history := s.history ++ [⟨s.now, .exit s.blk.arg1⟩] } := by
  rw [exec, execSysExit, State.clearResults_emit, State.a1_eq]
  rfl

/-- Settles O29: the next state of SYS.EXIT has the instance in focus halted on arg1 (`exec_sysExit`), which ends the run
and gives it its exit code. -/
theorem sysExitEndsTheRun : Obligations.SysExitEndsTheRun := by
  refine ⟨rfl, fun s => ⟨_, exec_sysExit s, ?noStep, ?exitCode, ?hostExit, rfl⟩⟩
  case noStep => exact (step_runOver_iff _).2 (State.over_of_halted rfl)
  case exitCode => exact State.exitCode_of_halted rfl
  case hostExit => exact State.hostExit_of_halted rfl

/-- Settles O30: SYS.BREAK does the clear alone. -/
theorem sysBreakOnlyClears : Obligations.SysBreakOnlyClears := by
  refine ⟨rfl, fun s => ?_⟩
  rw [exec, execSysBreak, State.clearResults_eq]

/-! ### The fallback -/

/-- Settles O31: a word of no row decodes to UNKNOWN (`decodeWord_of_no_row`), and UNKNOWN only logs. -/
theorem unknownOnlyLogsTheWord : Obligations.UnknownOnlyLogsTheWord := by
  refine ⟨fun _ => decodeWord_of_no_row, fun m f s => ?_⟩
  rw [exec, execUnknown, State.clearResults_traceArgs, State.clearResults_emit]

end Sys2Proof.Machine

/-! # Proofs: the timer, the clock and the interrupt

What a tick leaves of the state is one equation for each of its three ways (60_exceptions.md R203 to R206). Whether a queued
tick has a step is `State.mayTick`, and whether a queued advance has one is `State.mayAdvance_iff`. Interrupt pulses are
counted by `irqTimes`: only a tick of an instance that is to pulse (`Block.PulsesAt`) adds to it. -/

namespace Sys2Proof.Machine

/-! ### The effect of a tick -/

/-- A tick before the threshold only re-arms (60_exceptions.md R203, R204). -/
theorem State.tick_of_early {s : State} (fresh : StatusBytes) (hs : s.blk.sup = .uninitialized)
    (hearly : s.thresholdReached = false) : s.tick fresh = s.rearm := by
  simpa [hs, hearly] using s.tick_cases fresh

/-- The tick that completes the handshake, then re-armed (60_exceptions.md R205). -/
theorem State.tick_of_handshake {s : State} (fresh : StatusBytes) (hs : s.blk.sup = .uninitialized)
    (hreached : s.thresholdReached = true) :
    s.tick fresh = ((s.onBlk (fun b => b.setStatus fresh)).handshakeTick).rearm := by
  simpa [hs, hreached] using s.tick_cases fresh

/-- What no tick writes, and the deadline, which every tick writes alike (60_exceptions.md R203, 10_state.md R34). -/
theorem State.tick_frame (s : State) (fresh : StatusBytes) : s.tick fresh = { s with
    blk := { s.blk with
      deadline := some (s.now + 10)
      status := (s.tick fresh).blk.status
      result1 := (s.tick fresh).blk.result1
      result2 := (s.tick fresh).blk.result2
      sup := (s.tick fresh).blk.sup }
    history := (s.tick fresh).history } := by
  rcases s.tick_cases fresh with ⟨_, _, h⟩ | ⟨_, _, h⟩ | ⟨_, h⟩ <;> rw [h] <;> rfl

/-- Settles O43: a due tick has its step (`timerStep_of_due`), and it goes one of three ways. -/
theorem tickFollowsTheHandshake : Obligations.TickFollowsTheHandshake := by
  intro s fresh d hd hdue
  rw [timerStep_of_due fresh hd hdue]
  refine ⟨fun hs hlt => ?early, fun hs hle => ?handshake, fun hs => ?initialized⟩
  case early =>
    rw [State.tick_of_early fresh hs (decide_eq_false (Nat.not_le.2 hlt))]
    rfl
  case handshake =>
    rw [State.tick_of_handshake fresh hs (decide_eq_true hle)]
    rfl
  case initialized =>
    rw [State.tick_of_initialized fresh hs]
    rfl

/-! ### When a queued tick has a step -/

/-- A disarmed timer has no tick (60_exceptions.md R202). -/
theorem timerStep_of_disarmed {s : State} (fresh : StatusBytes) (hd : s.blk.deadline = none) :
    timerStep fresh s = .fault .tickNotDue := by
  simp [timerStep, State.tickDue, hd]

section Tick

variable {s : State} {k : Nat} {fresh : StatusBytes} {rest : List Event}

/-- A tick that heads the queue is the step, at its instance. -/
theorem step_tick (ho : s.over = false) (hk : k ≤ s.peers.length) (hq : s.inputs = .tick k fresh :: rest) :
    step s = mapNext (fun t => t.focus k) (timerStep fresh ((s.setInputs rest).focus k)) := by
  rw [step_event s _ rest ho hq]
  exact atInst_eq (timerStep fresh) hk

@[simp] theorem State.setInputs_mayTick (s : State) (q : List Event) (k : Nat) :
    (s.setInputs q).mayTick k = s.mayTick k := by
  rw [State.mayTick, State.mayTick, State.setInputs_focus]
  rfl

/-- A tick event that runs was enabled, and what it leaves at its instance is the tick of it. -/
theorem runEvent_tick {t : State} (h : runEvent (.tick k fresh) s = .next t) :
    (s.focus k).tickDue = true ∧ t = ((s.focus k).tick fresh).focus k ∧ t.inst? k = some ((s.focus k).tick fresh).blk := by
  obtain ⟨u, _, hu, _, rfl, _, hself, _⟩ := atInst_local h fun _ _ => LocalEffect.of_tick
  obtain ⟨hdue, rfl⟩ := timerStep_next _ _ _ hu
  exact ⟨hdue, rfl, hself⟩

theorem State.mayTick_iff_tickDue (s : State) (k : Nat) :
    s.mayTick k = true ↔ s.over = false ∧ k ≤ s.peers.length ∧ (s.focus k).tickDue = true := by
  simp [State.mayTick, and_assoc]

/-- A queued tick has a step exactly when it is enabled (60_exceptions.md R202). -/
theorem step_tick_next_iff (hq : s.inputs = .tick k fresh :: rest) : (∃ t, step s = .next t) ↔ s.mayTick k = true := by
  rw [← State.setInputs_mayTick s rest, State.mayTick_iff_tickDue]
  constructor
  · rintro ⟨t, h⟩
    obtain ⟨ho, _⟩ := step_next _ _ h
    rw [step_event s _ rest ho hq] at h
    obtain ⟨hk, _⟩ := atInst_next _ _ _ _ h
    obtain ⟨hdue, _⟩ := runEvent_tick h
    exact ⟨ho, hk, hdue⟩
  · rintro ⟨ho, hk, hdue⟩
    exact ⟨_, by rw [step_tick (s := s) ho hk hq, timerStep, if_pos hdue, mapNext]⟩

end Tick

/-- Settles O41: `step_tick`. -/
theorem stepRunsTheTick : Obligations.StepRunsTheTick :=
  fun _ _ _ _ ho hk hq => step_tick ho hk hq

/-- Settles O42: a tick is enabled exactly when its instance is armed and due (`State.mayTick_iff`), and a disarmed timer
stops. -/
theorem tickNeedsADueDeadline : Obligations.TickNeedsADueDeadline := by
  intro s k b fresh rest hb hq
  refine ⟨?enabled, fun ho hd => ?disarmed⟩
  case enabled => simp [step_tick_next_iff hq, s.mayTick_iff k, hb]
  case disarmed =>
    rw [step_tick ho (s.inst?_le k b hb) hq, timerStep_of_disarmed fresh, mapNext]
    rwa [State.focus_blk _ k b (by simpa using hb)]

/-- Settles O45: an enabled tick's deadline has come, and the invariant says that time has not passed it; the tick re-arms
(`State.tick_frame`). -/
theorem exactTicksRunAtTheirDeadline : Obligations.ExactTicksRunAtTheirDeadline := by
  intro s t k b fresh rest I hx hb hq h
  obtain ⟨ho, b', d, hb', hd, hdue⟩ := (s.mayTick_iff k).1 ((step_tick_next_iff hq).1 ⟨t, h⟩)
  obtain rfl : b = b' := Option.some.inj (hb.symm.trans hb')
  have hontime : s.now ≤ d := (I.blocks_inv b ((s.mem_blocks_iff b).2 ⟨k, hb⟩)).on_time hx d hd
  obtain rfl : s.now = d := Nat.le_antisymm hontime hdue
  rw [step_event s _ rest ho hq] at h
  obtain ⟨_, _, hself⟩ := runEvent_tick h
  exact ⟨hd, _, hself, by rw [State.tick_frame]; simp⟩

/-! ### The clock -/

/-- An advance is enabled when it is by 1 ms or more and, under TIMER_EXACT, passes no deadline (60_exceptions.md R201). -/
theorem State.mayAdvance_iff (s : State) (ms : Nat) : s.mayAdvance ms = true ↔
    1 ≤ ms ∧ (s.params.timerExact = true → ∀ b ∈ s.blocks, ∀ d, b.deadline = some d → s.now + ms ≤ d) := by
  simp only [← withinDeadline_iff]
  cases h : s.params.timerExact <;> simp [State.mayAdvance, h]

/-- Settles O44: the two answers of the Clock agent, told apart by `State.mayAdvance_iff`. -/
theorem clockStopsAtDeadlines : Obligations.ClockStopsAtDeadlines := by
  intro s ms rest ho hq
  have hstep : step s = clockStep ms (s.setInputs rest) := step_event s _ rest ho hq
  rw [hstep, ← s.mayAdvance_iff]
  exact ⟨fun h => if_pos h, fun h => if_neg h⟩

/-! ### Interrupt pulses -/

/-- The tick of an instance at `now` raises the interrupt: the handshake is done, or its threshold has come
(60_exceptions.md R204, R207). -/
def Block.PulsesAt (b : Block) (now : Nat) : Prop := b.sup = .initialized ∨ 1000 ≤ now - b.epoch

theorem State.tick_history_of_pulse {s : State} (fresh : StatusBytes) (h : s.blk.PulsesAt s.now) :
    (s.tick fresh).history = s.history ++ [⟨s.now, .irq s.blk.bind.irqLine⟩] := by
  rcases s.tick_cases fresh with ⟨hs, hearly, _⟩ | ⟨_, _, htick⟩ | ⟨_, htick⟩
  · rcases h with h | h
    · simp [hs] at h
    · exact absurd h (of_decide_eq_false hearly)
  · rw [htick]; rfl
  · rw [htick]; rfl

theorem State.tick_history_of_quiet {s : State} (fresh : StatusBytes) (h : ¬ s.blk.PulsesAt s.now) :
    (s.tick fresh).history = s.history := by
  rcases s.tick_cases fresh with ⟨_, _, htick⟩ | ⟨_, hreached, _⟩ | ⟨hs, _⟩
  · rw [htick]; rfl
  · exact absurd (.inr (of_decide_eq_true hreached)) h
  · exact absurd (.inl hs) h

@[simp] theorem irqTimes_append (line : Nat) (h h' : List OutRecord) :
    irqTimes line (h ++ h') = irqTimes line h ++ irqTimes line h' := by
  simp [irqTimes]

/-- Only a pulse on the line counts. -/
theorem irqTimes_eq_nil_iff (line : Nat) (h : List OutRecord) :
    irqTimes line h = [] ↔ ∀ r ∈ h, r.event ≠ .irq line := by
  simp [irqTimes, OutRecord.isIrq]

/-- No command pulses (60_exceptions.md R207). -/
theorem CommandEffect.irqTimes_eq {s t : State} (h : CommandEffect s t) (line : Nat) :
    irqTimes line t.history = irqTimes line s.history := by
  cases h with
  | resultsOnly _ _ h | armed h | faulted _ _ h => subst h; rfl
  | output e hi _ h => subst h; simp [irqTimes_eq_nil_iff, hi line]
  | named _ h =>
    subst h
    rw [State.takeName_eq]
    split <;> simp [irqTimes_eq_nil_iff]
  | synced _ h | exited h => subst h; simp [irqTimes_eq_nil_iff]

/-- No bus access pulses (60_exceptions.md R207). -/
theorem busAccess_irqTimes {a : BusAccess} {s t : State} (h : busAccess a s = .next t) (line : Nat) :
    irqTimes line t.history = irqTimes line s.history := by
  rcases busAccess_next _ _ _ h with ⟨v, rfl⟩ | ⟨off, bytes, _, hw⟩
  · rfl
  · rcases busWrite_next _ _ _ _ hw with rfl | ⟨r, v, _, rfl⟩ | ⟨v, hx⟩
    · rfl
    · rfl
    · exact (exec_next _ _ _ hx).irqTimes_eq line

/-- An event pulses no line unless it is a tick of an instance that is to pulse (60_exceptions.md R207). -/
theorem runEvent_irqTimes {e : Event} {s t : State} (h : runEvent e s = .next t)
    (hq : ∀ k fresh, e = .tick k fresh → ¬ (s.focus k).blk.PulsesAt s.now) (line : Nat) :
    irqTimes line t.history = irqTimes line s.history := by
  cases e with
  | access k a =>
    obtain ⟨_, u, hu, rfl⟩ := atInst_next _ _ _ _ h
    simpa using busAccess_irqTimes hu line
  | tick k fresh =>
    obtain ⟨_, rfl, _⟩ := runEvent_tick h
    rw [State.focus_history, State.tick_history_of_quiet fresh (by simpa using hq k fresh rfl), State.focus_history]
  | advance ms => obtain ⟨_, rfl⟩ := clockStep_next _ _ _ h; rfl
  | reset => cases h; rfl
  | guestStore addr bytes => obtain ⟨_, rfl⟩ := guestStoreStep_next _ _ _ _ h; rfl

/-- Settles O47: a tick's pulses are those of `State.tick`, and no other event has any (`runEvent_irqTimes`). -/
theorem onlyQualifyingTicksInterrupt : Obligations.OnlyQualifyingTicksInterrupt := by
  intro s t h
  obtain ⟨ho, hcases⟩ := step_next _ _ h
  refine ⟨fun k b fresh rest hq hb hpulse => ?pulse, fun line hquiet => ?quiet⟩
  case pulse =>
    rw [step_event s _ rest ho hq] at h
    obtain ⟨_, rfl, _⟩ := runEvent_tick h
    have hblk : ((s.setInputs rest).focus k).blk = b := State.focus_blk _ k b (by simpa using hb)
    rw [State.focus_history, State.tick_history_of_pulse fresh (by rw [hblk, State.focus_now]; exact hpulse), hblk]
    simp
  case quiet =>
    obtain ⟨_, rfl⟩ | ⟨e, rest, hq, he⟩ := hcases
    · rfl
    · refine runEvent_irqTimes he (fun k fresh htick hpulse => ?_) line
      subst htick
      obtain ⟨_, _, _, _, _, hb, _, _⟩ := atInst_local he fun _ _ => LocalEffect.of_tick
      obtain ⟨hs, hlt⟩ := hquiet k _ fresh rest hq hb
      rcases hpulse with hinit | hle
      · exact absurd (hs.symm.trans hinit) nofun
      · exact absurd hle (Nat.not_le.2 hlt)

end Sys2Proof.Machine

/-! # Proofs: commands complete, and instances do not interfere

A command answers for every state (43_competition.md R132). Of the other instances it reads the bindings alone, through the
admission of its transfer (20_memory.md R53), so replacing the others by some with the same bindings commutes with it. -/

namespace Sys2Proof.Machine

/-- Settles O32: COMP.INIT is refused or arms (`State.reinitRefused_iff`), and every other command has a next state. -/
theorem everyCommandCompletes : Obligations.EveryCommandCompletes := by
  intro i s
  cases i with
  | compInit =>
    by_cases href : s.reinitRefused = true
    · obtain ⟨hd, hp⟩ := s.reinitRefused_iff.1 href
      exact .inr ⟨rfl, hd, hp, exec_compInit_refused hd hp⟩
    · exact .inl ⟨_, by rw [exec_compInit, if_neg href]⟩
  | _ => exact .inl ⟨_, rfl⟩

/-- Settles O57: an event at instance `k` leaves the others (`runEvent_inst`). -/
theorem instancesDoNotInterfere : Obligations.InstancesDoNotInterfere := by
  intro s t e rest j k h hq hk hjk
  obtain ⟨ho, _⟩ := step_next _ _ h
  rw [step_event s e rest ho hq] at h
  obtain ⟨a, rfl⟩ | ⟨fresh, rfl⟩ := hk
  · exact runEvent_inst h j nofun (fun _ he => hjk (Event.access.inj he).1.symm) nofun
  · exact runEvent_inst h j nofun nofun fun _ he => hjk (Event.tick.inj he).1.symm

/-! ### Other instances in place of the peers -/

/-- The machine with other instances beside the one in focus (60_exceptions.md R223). -/
def State.withPeers (s : State) (others : List Block) : State := { s with peers := others }

section Peers

variable {s : State} {others : List Block}
  (hbind : others.map (fun b => b.bind) = s.peers.map (fun b => b.bind))
include hbind

/-- Admission reads the bindings of the other instances alone. -/
theorem State.withPeers_guestMemOk (addr n : Nat) : (s.withPeers others).guestMemOk addr n = s.guestMemOk addr n :=
  State.guestMemOk_congr s _ addr n (by simp [State.blocks, State.withPeers, hbind]) rfl

/-- A guest read by a command whose rest reads no other instance. -/
theorem State.withPeers_memRead (addr : Nat) {n : Nat} {rest : Vector Byte n → State → State}
    (hrest : ∀ bytes u, rest bytes (u.withPeers others) = (rest bytes u).withPeers others) :
    (s.withPeers others).memRead addr n rest = (s.memRead addr n rest).withPeers others := by
  rw [State.memRead, State.memRead, State.withPeers_guestMemOk hbind]
  split
  · exact hrest _ (s.afterRead addr n)
  · rfl

/-- A guest write by a command whose rest reads no other instance. -/
theorem State.withPeers_memWrite (addr : Nat) (bytes : List Byte) {rest : State → State}
    (hrest : ∀ u, rest (u.withPeers others) = (rest u).withPeers others) :
    (s.withPeers others).memWrite addr bytes rest = (s.memWrite addr bytes rest).withPeers others := by
  rw [State.memWrite, State.memWrite, State.withPeers_guestMemOk hbind]
  split
  · exact hrest (s.afterWrite addr bytes)
  · rfl

end Peers

theorem State.withPeers_takeName (s : State) (others : List Block) (bytes : Vector Byte nameCopyLen) :
    State.takeName bytes (s.withPeers others) = (State.takeName bytes s).withPeers others := by
  rw [State.takeName_eq, State.takeName_eq]
  rfl

/-- Settles O35, by the cases of the command: the two transfers read the bindings, no other command reads an instance
beside its own. -/
theorem commandsReadNoOtherInstance : Obligations.CommandsReadNoOtherInstance := by
  intro i s others hbind
  change exec i (s.withPeers others) = mapNext (fun t => t.withPeers others) (exec i s)
  cases i with
  | compInit =>
    have href : (s.withPeers others).reinitRefused = s.reinitRefused := rfl
    rw [exec_compInit, exec_compInit, href]
    split <;> rfl
  | compSetname =>
    exact congrArg Host.Outcome.next
      (State.withPeers_memRead (s := s.clearResults) hbind _ fun bytes u => u.withPeers_takeName others bytes)
  | compGetstatus =>
    exact congrArg Host.Outcome.next (State.withPeers_memWrite (s := s.clearResults) hbind _ _ fun _ => rfl)
  | _ => rfl

end Sys2Proof.Machine

/-! # Proofs: the schedule of the ticks

An advance to the deadline and the tick there are two steps (`OnSchedule.run_tick`), and they leave the state on schedule for the
next pair. `TrainEffect` says what a train of ticks comes to; it is proved by induction on the draws, its step being that a
tick and then a train make a train (60_exceptions.md R211). -/

namespace Sys2Proof.Machine

/-- A step that answers a next state is the first of a run. -/
theorem run_succ {M : Host.Core} {s t : M.State} (h : M.step s = .next t) (n : Nat) : M.run (n + 1) s = M.run n t := by
  rw [Host.Core.run, h]

/-- One instance, its threshold counted from 0 and its next tick at `t1`, the supervisor Initialized no earlier than the
threshold (60_exceptions.md R204). -/
structure OnSchedule (s : State) (t1 : Nat) : Prop where
  running : s.over = false
  alone : s.peers = []
  epoch : s.blk.epoch = 0
  deadline : s.blk.deadline = some t1
  handshake_late : s.blk.sup = .initialized → 1000 ≤ s.now

/-- What a train of ticks, the first at `t1`, makes of `s`: the draw of the first is `f`, of the others `fs`
(60_exceptions.md R203 to R207, R211). -/
structure TrainEffect (t1 : Nat) (f : StatusBytes) (fs : List StatusBytes) (s t : State) : Prop where
  now : t.now = t1 + 10 * fs.length
  deadline : t.blk.deadline = some (t.now + 10)
  sup : t.blk.sup = .initialized ↔ 1000 ≤ t.now
  irqs : irqTimes s.blk.bind.irqLine t.history = irqTimes s.blk.bind.irqLine s.history ++
    (tickTimes t1 (fs.length + 1)).filter (fun x => 1000 ≤ x)
  result1 : t.blk.result1 = if t.now < 1000 then s.blk.result1
    else if s.blk.sup = .uninitialized ∧ (fs.length = 0 ∨ t.now < 1010) then 0 else 1
  status : t.blk.status = if t.now < 1000 then s.blk.status else fs.getLast?.getD f

/-- The state `δ` ms later, with the events `rest` still to come. -/
def State.waited (s : State) (δ : Nat) (rest : List Event) : State := { s with inputs := rest, now := s.now + δ }

/-- A tick is a train of one (60_exceptions.md R204). -/
theorem TrainEffect.of_tick {s : State} (δ : Nat) (f : StatusBytes) (rest : List Event) (he : s.blk.epoch = 0)
    (hlate : s.blk.sup = .initialized → 1000 ≤ s.now) :
    TrainEffect (s.now + δ) f [] s ((s.waited δ rest).tick f) := by
  have hreached : (s.waited δ rest).thresholdReached = decide (1000 ≤ s.now + δ) := by
    simp [State.thresholdReached, State.waited, he]
  rcases (s.waited δ rest).tick_cases f with ⟨hs, ht, h⟩ | ⟨hs, ht, h⟩ | ⟨hs, h⟩ <;> rw [h] <;>
    simp only [State.waited] at hs
  · have hearly : s.now + δ < 1000 := by simpa [hreached] using ht
    constructor <;> simp [State.waited, hs, tickTimes, hearly]
  · have hcome : 1000 ≤ s.now + δ := by simpa [hreached] using ht
    constructor <;>
      simp [State.waited, State.handshakeTick, hs, tickTimes, hcome, Nat.not_lt.2 hcome, irqTimes, OutRecord.isIrq]
  · have hcome : 1000 ≤ s.now + δ := (hlate hs).trans (Nat.le_add_right _ _)
    constructor <;>
      simp [State.waited, State.initializedTick, hs, tickTimes, hcome, Nat.not_lt.2 hcome, irqTimes, OutRecord.isIrq]

theorem TrainEffect.uninitialized_iff {t1 : Nat} {f : StatusBytes} {fs : List StatusBytes} {s t : State}
    (h : TrainEffect t1 f fs s t) : t.blk.sup = .uninitialized ↔ t.now < 1000 := by
  cases hs : t.blk.sup with
  | uninitialized => simpa [hs] using h.sup
  | initialized => simpa [hs] using h.sup

/-- A train that follows a tick 10 ms later makes one train with it. -/
theorem TrainEffect.cons {s u t : State} {t1 : Nat} {f g : StatusBytes} {fs : List StatusBytes}
    (hfirst : TrainEffect t1 f [] s u) (hbind : u.blk.bind = s.blk.bind)
    (hlate : s.blk.sup = .initialized → 1000 ≤ u.now) (hrest : TrainEffect (t1 + 10) g fs u t) :
    TrainEffect t1 f (g :: fs) s t where
  now := by rw [hrest.now, List.length_cons]; omega
  deadline := hrest.deadline
  sup := hrest.sup
  irqs := by
    have h1 := hfirst.irqs
    have h2 := hrest.irqs
    rw [hbind] at h2
    rw [h2, h1, List.append_assoc, ← List.filter_append]
    rfl
  result1 := by
    have hu : u.now = t1 := hfirst.now
    have ht : t.now = t1 + 10 + 10 * fs.length := hrest.now
    by_cases hearly : t.now < 1000
    · rw [hrest.result1, hfirst.result1, if_pos hearly, if_pos hearly, if_pos (by omega)]
    · rw [hrest.result1, if_neg hearly, if_neg hearly]
      refine if_congr ⟨fun ⟨hus, hnow⟩ => ?_, fun ⟨hss, hnow⟩ => ?_⟩ rfl rfl
      · rw [hfirst.uninitialized_iff] at hus
        refine ⟨?_, by omega⟩
        cases hs : s.blk.sup with
        | uninitialized => rfl
        | initialized => exact absurd (hlate hs) (Nat.not_le.2 hus)
      · rw [List.length_cons] at hnow
        exact ⟨hfirst.uninitialized_iff.2 (by omega), by omega⟩
  status := by
    have hu : u.now = t1 := hfirst.now
    have ht : t.now = t1 + 10 + 10 * fs.length := hrest.now
    by_cases hearly : t.now < 1000
    · rw [hrest.status, hfirst.status, if_pos hearly, if_pos hearly, if_pos (by omega)]
    · rw [hrest.status, if_neg hearly, if_neg hearly, List.getLast?_cons, Option.getD_some]

/-! ### The steps of a train -/

/-- On schedule, an advance to the deadline is enabled (60_exceptions.md R201). -/
theorem OnSchedule.step_advance {s : State} {δ : Nat} {rest : List Event} (h : OnSchedule s (s.now + δ)) (hδ : 1 ≤ δ)
    (hq : s.inputs = .advance δ :: rest) : step s = .next (s.waited δ rest) := by
  refine (clockStopsAtDeadlines s δ rest h.running hq).1 ⟨hδ, fun _ b hb d hd => ?_⟩
  obtain rfl : b = s.blk := by simpa [State.blocks, h.alone] using hb
  exact (Option.some.inj (h.deadline.symm.trans hd)).le

/-- A due tick of the instance in focus. -/
theorem step_due_tick {s : State} {f : StatusBytes} {rest : List Event} {d : Nat} (ho : s.over = false)
    (hq : s.inputs = .tick 0 f :: rest) (hd : s.blk.deadline = some d) (hdue : d ≤ s.now) :
    step s = .next ((s.setInputs rest).tick f) := by
  rw [step_tick ho (Nat.zero_le _) hq, State.focus_zero, timerStep_of_due (s := s.setInputs rest) f hd hdue, mapNext,
    State.focus_zero]

/-- On schedule, an advance to the deadline and the tick there are the next two steps, and the next tick is on schedule
10 ms later (60_exceptions.md R203). -/
theorem OnSchedule.run_tick {s : State} {δ : Nat} {f : StatusBytes} {rest : List Event} (h : OnSchedule s (s.now + δ))
    (hδ : 1 ≤ δ) (hq : s.inputs = .advance δ :: .tick 0 f :: rest) :
    ∃ u, (∀ n, core.run (n + 2) s = core.run n u) ∧ OnSchedule u (u.now + 10) ∧ u.inputs = rest ∧
      u.blk.bind = s.blk.bind ∧ TrainEffect (s.now + δ) f [] s u := by
  have hadv : step s = .next (s.waited δ (.tick 0 f :: rest)) := h.step_advance hδ hq
  have htick : step (s.waited δ (.tick 0 f :: rest)) = .next ((s.waited δ rest).tick f) :=
    step_due_tick h.running rfl h.deadline (Nat.le_refl _)
  have E := TrainEffect.of_tick δ f rest h.epoch h.handshake_late
  refine ⟨_, fun n => (run_succ hadv (n + 1)).trans (run_succ htick n), ?onSchedule, ?inputs, ?bind, E⟩
  case onSchedule =>
    refine ⟨?_, ?_, ?_, E.deadline, E.sup.1⟩ <;> rw [State.tick_frame]
    · exact h.running
    · exact h.alone
    · exact h.epoch
  case inputs => rw [State.tick_frame]; rfl
  case bind => rw [State.tick_frame]; rfl

/-- A train run from a state on schedule has its effect, by induction on the draws. -/
theorem OnSchedule.run_train {s : State} {δ : Nat} {f : StatusBytes} {fs : List StatusBytes}
    (h : OnSchedule s (s.now + δ)) (hδ : 1 ≤ δ) (hq : s.inputs = .advance δ :: .tick 0 f :: tickTrain fs) :
    ∃ t, core.run (2 + 2 * fs.length) s = .next t ∧ TrainEffect (s.now + δ) f fs s t := by
  induction fs generalizing s δ f with
  | nil =>
    obtain ⟨u, hrun, _, _, _, E⟩ := h.run_tick hδ hq
    exact ⟨u, hrun 0, E⟩
  | cons g fs ih =>
    obtain ⟨u, hrun, hu, hrest, hbind, E⟩ := h.run_tick hδ hq
    obtain ⟨t, hrun', E'⟩ := ih hu (by decide) hrest
    have hnow : u.now = s.now + δ := E.now
    have hlate : s.blk.sup = .initialized → 1000 ≤ u.now := fun hs => (h.handshake_late hs).trans (by omega)
    exact ⟨t, (hrun _).trans hrun', E.cons hbind hlate (hnow ▸ E')⟩

/-- Settles O49: an Uninitialized instance armed for the next millisecond is on schedule, and `TrainEffect` is what the
statement says of its train. -/
theorem ticksFollowTheSchedule : Obligations.TicksFollowTheSchedule := by
  rintro s t0 f fs ho hp rfl hs he hd hq
  have hsched : OnSchedule s (s.now + 1) := ⟨ho, hp, he, hd, fun hi => absurd (hs.symm.trans hi) nofun⟩
  obtain ⟨t, hrun, E⟩ := hsched.run_train (Nat.le_refl 1) hq
  exact ⟨t, hrun, E.now, E.deadline, E.sup, E.irqs, by simpa [hs] using E.result1, E.status⟩

end Sys2Proof.Machine

/-! # Proofs: the Timer agent in infinite runs

What holds at a state of a run and is kept by each event that moves holds from there on (`IsRun.keeps`). Three predicates are
followed so: a due tick stays due until it is taken, its instance is re-armed or a reset comes; while time stops a tick that
is not due does not become due; and an armed timer stays armed until a reset (60_exceptions.md R226). -/

namespace Sys2Proof.Machine

/-! ### Bus accesses and the deadline -/

/-- `control` lies at offset 0 alone (10_state.md R20). -/
theorem regAt_control {off : Nat} (h : regAt off = some .control) : off = 0x00 := by
  unfold regAt at h
  split at h
  all_goals simp_all

/-- A bus write moves no deadline unless it is the control write of COMP.INIT (10_state.md R34). -/
theorem busWrite_deadline {off : Nat} {bytes : List Byte} {s t : State} (h : busWrite off bytes s = .next t)
    (hinit : off = 0x00 → decode bytes ≠ .ok .compInit) : t.blk.deadline = s.blk.deadline := by
  cases hv : wordOfBytes bytes with
  | none =>
    cases (busWrite_no_word off s hv).symm.trans h
    rfl
  | some v =>
    cases hr : regAt off with
    | none =>
      cases (busWrite_unused bytes s hr).symm.trans h
      rfl
    | some r =>
      rw [busWrite_register s hr hv] at h
      cases r with
      | control =>
        have hother : decodeWord v ≠ .compInit := fun hi => hinit (regAt_control hr) (hi ▸ decode_of_word hv)
        obtain ⟨_, _, _, _, _, _, _, hwrites, _⟩ := commandsWriteOnlyTheirOwnState _ _ _ h
        simpa using (hwrites hother).1
      | _ => cases h; simp

/-- A bus access moves no deadline unless it is the control write of COMP.INIT (10_state.md R34). -/
theorem busAccess_deadline {a : BusAccess} {s t : State} (h : busAccess a s = .next t)
    (hinit : ∀ bytes, a = .write 0x00 bytes → decode bytes ≠ .ok .compInit) : t.blk.deadline = s.blk.deadline := by
  rcases busAccess_next _ _ _ h with ⟨v, rfl⟩ | ⟨off, bytes, rfl, hw⟩
  · rfl
  · exact busWrite_deadline hw fun hoff => hinit bytes (hoff ▸ rfl)

/-! ### One event and a tick of instance `k` -/

section Event

variable {e : Event} {s t : State} {k : Nat}

/-- An event that is not the tick of instance `k`, its COMP.INIT or a reset leaves that instance's deadline. -/
theorem runEvent_deadline (h : runEvent e s = .next t) {b : Block} (hb : s.inst? k = some b) (hr : e ≠ .reset)
    (ht : ∀ fresh, e ≠ .tick k fresh)
    (hinit : ∀ bytes, e = .access k (.write 0x00 bytes) → decode bytes ≠ .ok .compInit) :
    ∃ b', t.inst? k = some b' ∧ b'.deadline = b.deadline := by
  by_cases ha : ∃ a, e = .access k a
  · obtain ⟨a, rfl⟩ := ha
    obtain ⟨u, _, hu, _, _, hself, hself', _⟩ := atInst_local h fun _ _ => LocalEffect.of_bus
    obtain rfl : (s.focus k).blk = b := Option.some.inj (hself.symm.trans hb)
    exact ⟨u.blk, hself', busAccess_deadline hu fun bytes ha => hinit bytes (ha ▸ rfl)⟩
  · exact ⟨b, (runEvent_inst h k hr (fun a he => ha ⟨a, he⟩) ht).trans hb, rfl⟩

/-- Such an event leaves a due tick enabled, unless it ends the run. -/
theorem runEvent_keeps_mayTick (h : runEvent e s = .next t) (hs : s.mayTick k = true) (ho : t.over = false)
    (hr : e ≠ .reset) (ht : ∀ fresh, e ≠ .tick k fresh)
    (hinit : ∀ bytes, e = .access k (.write 0x00 bytes) → decode bytes ≠ .ok .compInit) : t.mayTick k = true := by
  obtain ⟨_, b, d, hb, hd, hdue⟩ := (s.mayTick_iff k).1 hs
  obtain ⟨b', hb', hd'⟩ := runEvent_deadline h hb hr ht hinit
  exact (t.mayTick_iff k).2 ⟨ho, b', d, hb', hd'.trans hd, hdue.trans (runEvent_progress h).now_le⟩

/-- An access or a tick at an instance makes no tick due there that was not: a new deadline lies ahead
(43_competition.md R130, 60_exceptions.md R203). -/
theorem atInst_due {f : State → Answer} {b' : Block} {d : Nat} (h : atInst k f s = .next t)
    (hl : ∀ s t, f s = .next t → LocalEffect s t) {j : Nat} (hb' : t.inst? j = some b') (hd : b'.deadline = some d)
    (hdue : d ≤ s.now) : ∃ b, s.inst? j = some b ∧ b.deadline = some d := by
  obtain ⟨u, _, _, L, _, hself, hself', hother⟩ := atInst_local h hl
  by_cases hjk : j = k
  · subst hjk
    obtain rfl : u.blk = b' := Option.some.inj (hself'.symm.trans hb')
    rcases L.deadline_cases hd with hold | rfl | rfl
    · exact ⟨_, hself, hold⟩
    · simp at hdue
    · simp at hdue
  · exact ⟨b', (hother j hjk).symm.trans hb', hd⟩

/-- While time stops no event makes a tick due that was not. -/
theorem runEvent_mayTick_of_no_advance (h : runEvent e s = .next t) (ho : s.over = false)
    (hadv : ∀ ms, e ≠ .advance ms) (ht : t.mayTick k = true) : s.mayTick k = true := by
  obtain ⟨_, b', d, hb', hd, hdue⟩ := (t.mayTick_iff k).1 ht
  suffices hold : ∃ b, s.inst? k = some b ∧ b.deadline = some d ∧ d ≤ s.now by
    obtain ⟨b, hb⟩ := hold
    exact (s.mayTick_iff k).2 ⟨ho, b, d, hb⟩
  have hnow : t.now = s.now := by
    rw [runEvent_now h]
    split
    · exact absurd rfl (hadv _)
    · rfl
  rw [hnow] at hdue
  cases e with
  | access j a =>
    obtain ⟨b, hb, hd⟩ := atInst_due h (fun _ _ => LocalEffect.of_bus) hb' hd hdue
    exact ⟨b, hb, hd, hdue⟩
  | tick j fresh =>
    obtain ⟨b, hb, hd⟩ := atInst_due h (fun _ _ => LocalEffect.of_tick) hb' hd hdue
    exact ⟨b, hb, hd, hdue⟩
  | advance ms => exact absurd rfl (hadv ms)
  | reset =>
    cases h
    obtain ⟨_, _, rfl⟩ := resetAll_mem_blocks ((State.mem_blocks_iff _ _).2 ⟨k, hb'⟩)
    cases hd
  | guestStore addr bytes => exact ⟨b', (runEvent_inst h k nofun nofun nofun).symm.trans hb', hd, hdue⟩

/-- A tick just taken is not due again: it has re-armed (60_exceptions.md R203). -/
theorem runEvent_tick_not_due {fresh : StatusBytes} (h : runEvent (.tick k fresh) s = .next t) : t.mayTick k = false := by
  obtain ⟨_, ht, hself⟩ := runEvent_tick h
  refine Bool.eq_false_iff.2 fun hdue => ?_
  obtain ⟨_, b, d, hb, hd, hle⟩ := (t.mayTick_iff k).1 hdue
  obtain rfl := Option.some.inj (hself.symm.trans hb)
  rw [State.tick_frame] at hd
  obtain rfl := Option.some.inj hd
  rw [runEvent_now h] at hle
  simp at hle

end Event

/-- While the run is not over, the Clock agent has a step of 1 ms or some tick is due (60_exceptions.md R201, R202). -/
theorem State.mayAdvance_or_mayTick {s : State} (ho : s.over = false) :
    s.mayAdvance 1 = true ∨ ∃ k, s.mayTick k = true := by
  by_cases hdue : ∃ b ∈ s.blocks, ∃ d, b.deadline = some d ∧ d ≤ s.now
  · obtain ⟨b, hb, d, hd, hle⟩ := hdue
    obtain ⟨k, hk⟩ := (s.mem_blocks_iff b).1 hb
    exact .inr ⟨k, (s.mayTick_iff k).2 ⟨ho, b, d, hk, hd, hle⟩⟩
  · refine .inl ((s.mayAdvance_iff 1).2 ⟨Nat.le_refl 1, fun _ b hb d hd => ?_⟩)
    exact Nat.lt_of_not_le fun hle => hdue ⟨b, hb, d, hd, hle⟩

/-- Under TIMER_EXACT no advance is enabled while a tick is due (60_exceptions.md R201). -/
theorem State.mayAdvance_of_mayTick {s : State} {k : Nat} (h : s.mayTick k = true) (hx : s.params.timerExact = true)
    (ms : Nat) : s.mayAdvance ms = false := by
  obtain ⟨_, b, d, hb, hd, hdue⟩ := (s.mayTick_iff k).1 h
  refine Bool.eq_false_iff.2 fun hadv => ?_
  obtain ⟨hms, hall⟩ := (s.mayAdvance_iff ms).1 hadv
  have hle := hall hx b ((s.mem_blocks_iff b).2 ⟨k, hb⟩) d hd
  omega

/-! ### Along a run -/

section Run

variable {agent : Nat → Option Event} {run : Nat → State}

/-- A predicate that does not look at the queue, holds at one state of a run and is kept by every event that moves from
there on, holds in every later state. -/
theorem IsRun.keeps {P : State → Prop} (h : IsRun agent run) {i : Nat} (hq : ∀ s q, P (State.setInputs s q) ↔ P s)
    (he : ∀ n e, i ≤ n → agent n = some e → runEvent e ((run n).setInputs []) = .next (run (n + 1)) →
      P ((run n).setInputs []) → P (run (n + 1)))
    (hi : P (run i)) {j : Nat} (hij : i ≤ j) : P (run j) := by
  induction j, hij using Nat.le_induction with
  | base => exact hi
  | succ n hn ih =>
    have hn' := (hq (run n) []).2 ih
    cases ha : agent n with
    | none => rwa [h.idle ha]
    | some e => exact he n e hn ha (h.event ha) hn'

/-- A due tick stays enabled while it is not taken, its instance is not re-armed and no reset comes. -/
theorem IsRun.mayTick_stays (h : IsRun agent run) {i j k : Nat} (htick : ∀ n, i ≤ n → ∀ f, agent n ≠ some (.tick k f))
    (hreset : ∀ n, i ≤ n → agent n ≠ some .reset)
    (hinit : ∀ n, i ≤ n → ∀ bytes, agent n = some (.access k (.write 0x00 bytes)) → decode bytes ≠ .ok .compInit)
    (hdue : (run i).mayTick k = true) (hij : i ≤ j) : (run j).mayTick k = true := by
  refine h.keeps (P := fun s => s.mayTick k = true) (fun s q => by simp) ?_ hdue hij
  rintro n _ hn ha hev hn'
  exact runEvent_keeps_mayTick hev hn' (h.not_over _) (fun he => hreset n hn (he ▸ ha))
    (fun f he => htick n hn f (he ▸ ha)) fun bytes he => hinit n hn bytes (he ▸ ha)

/-- Where nothing is scheduled the machine may idle for ever (70_reset_and_hazards.md R302). -/
theorem isRun_idle {s : State} (ho : s.over = false) (hq : s.inputs = []) :
    IsRun (fun _ => none) (fun _ => s) := by
  intro i
  have hs : s.setInputs [] = s := by rw [← hq]; rfl
  simp [hs, step, ho, hq]

/-- After the last advance of a run an instance ticks at most once: taken, its tick does not become due again. -/
theorem IsRun.tick_once (h : IsRun agent run) {i j l k : Nat} {f g : StatusBytes}
    (hstop : ∀ n, i ≤ n → ∀ ms, agent n ≠ some (.advance ms)) (hij : i ≤ j) (hjl : j < l)
    (hj : agent j = some (.tick k f)) : agent l ≠ some (.tick k g) := by
  intro hl
  have hnot : (run l).mayTick k = false := by
    refine h.keeps (P := fun s => s.mayTick k = false) (fun s q => by simp) (fun n e hn ha hev hn' => ?_)
      (runEvent_tick_not_due (h.event hj)) hjl
    refine Bool.eq_false_iff.2 fun hdue => Bool.eq_false_iff.1 hn' ?_
    exact runEvent_mayTick_of_no_advance hev (h.not_over n) (fun ms he => hstop n (by omega) ms (he ▸ ha)) hdue
  have htaken : (run l).mayTick k = true := by
    simpa using (step_tick_next_iff (s := (run l).setInputs [.tick k g]) rfl).1 ⟨_, hl ▸ h l⟩
  exact absurd (hnot.symm.trans htaken) nofun

/-- With no reset from some state on, an armed timer stays armed (10_state.md R28). -/
theorem IsRun.armed_stays (h : IsRun agent run) {i j k : Nat} {b : Block}
    (hreset : ∀ n, i ≤ n → agent n ≠ some .reset) (hb : (run i).inst? k = some b) (hd : b.deadline ≠ none)
    (hij : i ≤ j) : ∃ b', (run j).inst? k = some b' ∧ b'.deadline ≠ none := by
  refine h.keeps (P := fun s => ∃ b', s.inst? k = some b' ∧ b'.deadline ≠ none) (fun s q => by simp) ?_ ⟨b, hb, hd⟩ hij
  rintro n e hn ha hev ⟨c, hc, hcd⟩
  obtain ⟨c', hc', K⟩ := runEvent_keeps hev (fun he => hreset n hn (he ▸ ha)) hc
  exact ⟨c', hc', K.armed hcd⟩

end Run

/-- Settles O50: a tick that nothing on the list takes away stays enabled (`IsRun.mayTick_stays`), so fairness has it
taken. -/
theorem fairRunsTakeDueTicks : Obligations.FairRunsTakeDueTicks := by
  intro agent run k i hrun hfair hdue
  refine ⟨?taken, fun hx ms hadv => ?blocked⟩
  case taken =>
    by_contra hnever
    simp only [not_exists, not_and, not_or] at hnever
    choose htick hreset hinit using hnever
    obtain ⟨j, hj, f, htaken⟩ := hfair k i fun _ hj => hrun.mayTick_stays htick hreset hinit hdue hj
    exact htick j hj f htaken
  case blocked =>
    obtain ⟨hmay, _⟩ := clockStep_next _ _ _ (hrun.event hadv)
    have hno : (run i).mayAdvance ms = false := State.mayAdvance_of_mayTick hdue hx ms
    exact absurd (hno.symm.trans hmay) nofun

/-- Settles O51: fairness asks nothing of a run that idles where no tick is due, and the other clauses are
`IsRun.tick_once`, `State.mayAdvance_or_mayTick` and `IsRun.armed_stays`. -/
theorem timeMayStopButTheTimerStaysArmed : Obligations.TimeMayStopButTheTimerStaysArmed := by
  refine ⟨fun s ho hq hnone => ⟨isRun_idle ho hq, fun k i hdue => ?unfair⟩,
    fun _ _ _ _ _ _ _ _ hrun hstop hij hjl hj => hrun.tick_once hstop hij hjl hj,
    fun _ ho => State.mayAdvance_or_mayTick ho,
    fun _ _ _ _ _ _ hrun hreset hb hd hij => hrun.armed_stays hreset hb hd hij⟩
  case unfair => exact absurd ((hnone k).symm.trans (hdue i (Nat.le_refl i))) nofun

end Sys2Proof.Machine

/-! # Proofs: the reset and the end of a run

The power-on reset and every later one leave an instance at the same table, `Block.afterReset` (70_reset_and_hazards.md
R300, R301); what a later reset leaves at instance `k` is `resetAll_inst?`. The exit code of a run that is over is some
instance's (`State.exitCode_of_over`), so the invariant says where its `Exit` stands (R305). -/

namespace Sys2Proof.Machine

/-! ### The power-on reset -/

@[simp] theorem State.reset_over : State.reset.over = false := rfl

/-- Settles O52: the instance is one after reset, and the platform is as at power-on, field by field. -/
theorem resetLeavesTheTable : Obligations.ResetLeavesTheTable :=
  ⟨rfl, rfl, rfl, State.reset_over, rfl, rfl, rfl⟩

/-- With no agent scheduled the state stays, while the run is not over (70_reset_and_hazards.md R302). -/
theorem step_idle {s : State} (ho : s.over = false) (hq : s.inputs = []) : step s = .next s := by
  simp [step, ho, hq]

/-- Settles O54: no agent is scheduled (`step_idle`), and the timer is disarmed (`timerStep_of_disarmed`). -/
theorem blockWaitsAfterReset : Obligations.BlockWaitsAfterReset := by
  refine ⟨step_idle State.reset_over rfl, fun fresh rest => ?tick⟩
  case tick =>
    change step (State.reset.setInputs (.tick 0 fresh :: rest)) = _
    rw [step_tick (by simp) (Nat.zero_le _) rfl, timerStep_of_disarmed fresh rfl, mapNext]

/-- Settles O60: nothing is stored or put out, and the one instance is one after reset (`Block.afterReset_inv`). -/
theorem resetMeetsTheInvariant : Obligations.ResetMeetsTheInvariant where
  mem_wf := ⟨.nil, nofun⟩
  history_past := nofun
  history_ordered := .nil
  blocks_inv b hb := by
    obtain rfl : b = State.reset.blk := List.mem_singleton.1 hb
    exact Block.afterReset_inv ..

/-! ### A later reset -/

/-- A reset leaves at each instance the table's values, its binding kept (70_reset_and_hazards.md R300, R301). -/
theorem resetAll_inst? (s : State) (k : Nat) :
    (resetAll s).inst? k = (s.inst? k).map fun b => Block.afterReset b.bind s.resets k := by
  cases k with
  | zero => rfl
  | succ j => simp [State.inst?, State.blocks, resetAll]

/-- Settles O53: a queued reset is `resetAll`, which leaves instance `k` after reset (`resetAll_inst?`) and writes nothing
of the platform. -/
theorem resetStepResetsEveryInstance : Obligations.ResetStepResetsEveryInstance := by
  intro s rest ho hq
  refine ⟨resetAll (s.setInputs rest), step_event s _ rest ho hq, rfl, rfl, rfl, rfl, rfl, List.length_mapIdx,
    fun k b hb => ⟨Block.afterReset b.bind s.resets k, ?stands, ?table⟩⟩
  case stands => simp [resetAll_inst?, hb]
  case table => exact ⟨rfl, rfl, rfl, rfl, rfl, rfl, rfl, rfl, rfl, rfl, rfl, rfl, rfl⟩

/-! ### The end of a run -/

theorem State.final_iff (s : State) : s.final = true ↔ s.over = true ∧ ∀ b ∈ s.blocks, b.faults = [] := by
  simp [State.final, State.faultFree]

/-- The exit code of a run that is over is that of an instance that halted (44_system_default.md R140). -/
theorem State.exitCode_of_over {s : State} (h : s.over = true) :
    ∃ c, s.exitCode = some c ∧ ∃ b ∈ s.blocks, b.halted = some c := by
  obtain ⟨b, hb, hhalted⟩ := s.over_iff.1 h
  cases hc : s.exitCode with
  | none => exact absurd (List.findSome?_eq_none_iff.1 hc b hb) hhalted
  | some c => exact ⟨c, rfl, List.exists_of_findSome?_eq_some hc⟩

/-- Settles O56: the exit code is that of an instance that halted, whose invariant says that its `Exit` stands last. -/
theorem finalHistoryEndsWithExit : Obligations.FinalHistoryEndsWithExit := by
  intro s I hfinal
  obtain ⟨ho, hfree⟩ := s.final_iff.1 hfinal
  obtain ⟨c, hc, b, hb, hhalted⟩ := State.exitCode_of_over ho
  exact ⟨c, hc, (I.blocks_inv b hb).exit_last c hhalted, hfree, (step_runOver_iff s).2 ho⟩

end Sys2Proof.Machine
